-- ==== Sys2Proof/Word.lean ====
section
/-! DEFINITION. The sizes of the values the block holds: a byte of the buffer, a 7-bit palette
index, a 7-bit logical colour, an RGB triple. -/

namespace Sys2Proof

/-- A byte of the input buffer, 8 bits, value 0 to 255 (00_scope.md R11). -/
abbrev Byte := BitVec 8

/-- A PaletteIndex, 7 bits, 0 to 127 (30_encoding.md R87). -/
abbrev PaletteIndex := BitVec 7

/-- One entry of the index grid IDX, 7 bits (10_state.md R32). -/
abbrev LogicalColour := BitVec 7

/-- An RGB triple of three 8-bit values, in the order red, green, blue (10_state.md R30). -/
structure Rgb where
  r : Byte
  g : Byte
  b : Byte
deriving DecidableEq, Repr

end Sys2Proof
end

