-- ==== Sys2Proof/Config.lean ====
section
/-! DEFINITION. The parameters of the block (00_scope.md R7, 92_eei_decisions.md, open parameters),
each a field of the configuration. The values THIS machine takes are `Sys2Proof.config` in
Decode.lean. HOST_MAP has no field: a model exposes the state by name and needs no bus address
(log entry 11). -/

namespace Sys2Proof

/-- The two admissible values of MODE1_SIZE (90_conflicts.md C1, 92_eei_decisions.md D2). -/
inductive Mode1Size where
  /-- 32·192 + 32·24 + 16 = 6928, the source's formula: the default. -/
  | byFormula
  /-- 7120, the literal the source prints. -/
  | asPrinted
deriving DecidableEq, Repr

/-- What a byte of 128 to 255 used as a PaletteIndex does (PAL_HI_POLICY, 93 U1). -/
inductive PalHiPolicy where
  /-- Bit 7 is ignored: the default (92_eei_decisions.md D4). -/
  | mask
  /-- The decode faults on the first such byte: the recorded alternative. -/
  | fault
deriving DecidableEq, Repr

/-- The parameters of 00_scope.md R7. The source fixes the value of each field down to
`narrowWidth` but `mode1Size` (`Config.sourceFixed` in WellFormed.lean says which values); the spec
decides `mode1Size` and the last three. -/
structure Config where
  /-- PAL_ENTRIES: the number of entries of the palette. -/
  palEntries : Nat
  /-- INTENSITY: the levels a colour component can take, by intensity index. -/
  intensity : List Byte
  /-- RAW_SIZE: the size in bytes of a RawIndexed buffer. -/
  rawSize : Nat
  /-- MODE1_SIZE, one of its two admissible values. -/
  mode1Size : Mode1Size
  /-- MODE2_SIZE: the size in bytes of a Mode2 buffer. -/
  mode2Size : Nat
  /-- LIN2_SIZE: the size in bytes of a Linear2bpp buffer. -/
  lin2Size : Nat
  /-- LIN4_SIZE: the size in bytes of a Linear4bpp buffer. -/
  lin4Size : Nat
  /-- HEIGHT, of all formats. -/
  height : Nat
  /-- WIDTH for RawIndexed and Linear2bpp. -/
  wideWidth : Nat
  /-- WIDTH for Mode1, Mode2 and Linear4bpp. -/
  narrowWidth : Nat
  /-- PAL_HI_POLICY. -/
  palHiPolicy : PalHiPolicy
  /-- LEN_BITS: the width of LEN and ERRSIZE in hardware; which lengths a host can present. -/
  lenBits : Nat
  /-- BUF_CAP: the capacity of the buffer memory in bytes. -/
  bufCap : Nat
deriving DecidableEq, Repr

end Sys2Proof
end

