-- ==== Sys2Proof/Syntax.lean ====
section
/-! DEFINITION. The operations, the formats that select them, the one error, and the commands and
reads of the host. -/

namespace Sys2Proof

/-- The five operations of spec/opcode_table.json. None has an operand: every operand of an
operation is a constant of its format (30_encoding.md R82). -/
inductive Instr where
  /-- DEC.RAW (45_assembler.md R166). -/
  | decRaw
  /-- DEC.M1 (42_packed_mode1.md R124). -/
  | decM1
  /-- DEC.M2 (43_packed_mode2.md R137). -/
  | decM2
  /-- DEC.L2 (44_linear.md R147). -/
  | decL2
  /-- DEC.L4 (44_linear.md R148). -/
  | decL4
deriving DecidableEq, Repr

/-- The five layouts of a buffer (00_scope.md R2), the values of the register FMT
(10_state.md R26). The codes 5 to 7 are never produced and have no constructor. -/
inductive Format where
  | rawIndexed
  | mode1
  | mode2
  | linear2bpp
  | linear4bpp
deriving DecidableEq, Repr

/-- The one failure of the classifier, carrying the observed length (60_exceptions.md R180). -/
inductive DecodeError where
  | unsupportedFormat (observedSize : Nat)
deriving DecidableEq, Repr

/-- What the host may ask to read (70_reset_and_hazards.md R206). IDX and RGB are addressed by k
or, equally, by the pair (x, y) (10_state.md R32, R33). -/
inductive HostRead where
  | len
  | status
  | fmt
  | width
  | height
  | clutLen
  | errSize
  | clut (j : Nat)
  | idx (k : Nat)
  | rgb (k : Nat)
  | idxAt (x y : Nat)
  | rgbAt (x y : Nat)
  | pal (i : Nat)
deriving DecidableEq, Repr

/-- The host's commands (30_encoding.md R90, 70_reset_and_hazards.md section 2). -/
inductive HostCommand where
  /-- RESET (R200). -/
  | reset
  /-- LOAD(b): the whole buffer in one command (R203). -/
  | load (b : List Byte)
  /-- START (R204). -/
  | start
  /-- A read of a register or of an element (R206). -/
  | read (r : HostRead)
deriving DecidableEq, Repr

end Sys2Proof
end

