-- ==== Sys2Proof/WellFormed.lean ====
section
/-! DEFINITION. The checks a term must pass to stand for something the hardware or its host can
form. They restrict statements only: no definition of the machine relies on them. -/

namespace Sys2Proof

/-- Every operation is well formed: it has no field that could hold an illegal value
(30_encoding.md R82, R88). -/
def Instr.wf : Instr → Bool
  | .decRaw => true
  | .decM1 => true
  | .decM2 => true
  | .decL2 => true
  | .decL4 => true

/-- The parameters the source fixes have the values it gives (00_scope.md R7, first group). -/
def Config.sourceFixed (c : Config) : Bool :=
  decide (c.palEntries = 128) &&
  (decide (c.intensity = [0x00#8, 0x24#8, 0x49#8, 0x6d#8, 0x92#8, 0xb6#8, 0xdb#8, 0xff#8]) &&
  (decide (c.rawSize = 98304) && (decide (c.mode2Size = 12304) && (decide (c.lin2Size = 24580) &&
  (decide (c.lin4Size = 24592) && (decide (c.height = 192) && (decide (c.wideWidth = 512) &&
  decide (c.narrowWidth = 256))))))))

/-- The admissible configurations (00_scope.md R7; 92_eei_decisions.md, open parameters): the
source's values, LEN_BITS 17 or more, BUF_CAP 98304 or more. MODE1_SIZE and PAL_HI_POLICY have no
other values by their types. -/
def Config.wf (c : Config) : Bool :=
  c.sourceFixed && (decide (17 ≤ c.lenBits) && decide (98304 ≤ c.bufCap))

/-- A read names an element that exists in its address space for some format
(10_state.md R35): CLUT below 128, IDX and RGB below 98304 or inside 512 × 192, PAL below 128. -/
def HostRead.wf : HostRead → Bool
  | .clut j => decide (j < 128)
  | .idx k => decide (k < 98304)
  | .rgb k => decide (k < 98304)
  | .idxAt x y => decide (x < 512) && decide (y < 192)
  | .rgbAt x y => decide (x < 512) && decide (y < 192)
  | .pal i => decide (i < 128)
  | .len => true
  | .status => true
  | .fmt => true
  | .width => true
  | .height => true
  | .clutLen => true
  | .errSize => true

/-- A command the hardware can be presented with: a LOAD's length fits LEN_BITS (a longer one is
the host's duty to refuse, 92_eei_decisions.md D3), a read names an element that exists. -/
def HostCommand.wf (c : Config) : HostCommand → Bool
  | .reset => true
  | .load b => decide (b.length < 2 ^ c.lenBits)
  | .start => true
  | .read r => r.wf

end Sys2Proof
end

