-- ==== Sys2Proof/Decode.lean ====
section
/-! DEFINITION. The configuration of this machine, the operation selector LEN: its decoder (the
format classifier, 41_classifier.md) and its encoder (the words of opcode_table.json). -/

namespace Sys2Proof

/-- The parameter values this hardware takes (00_scope.md R7). The sizes are written by the
source's formulas (41_classifier.md R111). MODE1_SIZE = 6928 is log entry 1 and PAL_HI_POLICY = mask
log entry 2; LEN_BITS = 32 (log entry 3) and BUF_CAP = 98304 (log entry 4) are the spec's defaults. -/
def config : Config :=
  { palEntries := 128
    intensity := [0x00, 0x24, 0x49, 0x6d, 0x92, 0xb6, 0xdb, 0xff]
    rawSize := 512 * 192
    mode1Size := .byFormula
    mode2Size := 32 * 192 + 32 * 192 + 16
    lin2Size := 128 * 192 + 4
    lin4Size := 128 * 192 + 16
    height := 192
    wideWidth := 512
    narrowWidth := 256
    palHiPolicy := .mask
    lenBits := 32
    bufCap := 98304 }

/-- MODE1_SIZE (00_scope.md R7, 90_conflicts.md C1). -/
def mode1SizeBytes : Mode1Size → Nat
  | .byFormula => 32 * 192 + 32 * 24 + 16
  | .asPrinted => 7120

/-- The exact size in bytes of each layout (41_classifier.md R111). -/
def formatSize (c : Config) : Format → Nat
  | .rawIndexed => c.rawSize
  | .mode1 => mode1SizeBytes c.mode1Size
  | .mode2 => c.mode2Size
  | .linear2bpp => c.lin2Size
  | .linear4bpp => c.lin4Size

/-- CLASSIFY(n) (41_classifier.md R110): the length alone selects the format, and any other
length fails with the observed size. -/
def classify (c : Config) (n : Nat) : Except DecodeError Format :=
  if n = formatSize c .rawIndexed then .ok .rawIndexed
  else if n = formatSize c .mode1 then .ok .mode1
  else if n = formatSize c .mode2 then .ok .mode2
  else if n = formatSize c .linear2bpp then .ok .linear2bpp
  else if n = formatSize c .linear4bpp then .ok .linear4bpp
  else .error (.unsupportedFormat n)

/-- Dispatch: the format selects exactly one operation (41_classifier.md R113). -/
def formatOperation : Format → Instr
  | .rawIndexed => .decRaw
  | .mode1 => .decM1
  | .mode2 => .decM2
  | .linear2bpp => .decL2
  | .linear4bpp => .decL4

/-- The format an operation decodes (opcode_table.json, "source_format"). -/
def operationFormat : Instr → Format
  | .decRaw => .rawIndexed
  | .decM1 => .mode1
  | .decM2 => .mode2
  | .decL2 => .linear2bpp
  | .decL4 => .linear4bpp

/-- The decoder: the operation the selector value `n` selects (30_encoding.md R80, R81), or the
error by name (R88). The length is compared as a natural number (R80; log entry 3). -/
def decodeSelector (c : Config) (n : Nat) : Except DecodeError Instr :=
  match classify c n with
  | .ok f => .ok (formatOperation f)
  | .error e => .error e

/-- The decoder on the selector word as the 32-bit register LEN holds it (30_encoding.md R80). -/
def decodeWord (c : Config) (w : BitVec 32) : Except DecodeError Instr :=
  decodeSelector c w.toNat

/-- The encoder: the selector word of an operation, the hexadecimal column of
30_encoding.md R81. -/
def encode (c : Config) : Instr → BitVec 32
  | .decRaw => 0x00018000#32
  | .decM1 =>
    match c.mode1Size with
    | .byFormula => 0x00001B10#32
    | .asPrinted => 0x00001BD0#32
  | .decM2 => 0x00003010#32
  | .decL2 => 0x00006004#32
  | .decL4 => 0x00006010#32

/-- One row of opcode_table.json: a word selects `op` when its bits under `mask` are `pattern`. -/
structure OpcodeRow where
  op : Instr
  mask : BitVec 32
  pattern : BitVec 32
deriving DecidableEq, Repr

/-- The rows of opcode_table.json, every bit taking part (30_encoding.md R80). -/
def opcodeRows (c : Config) : List OpcodeRow :=
  [ ⟨.decRaw, 0xFFFFFFFF#32, encode c .decRaw⟩,
    ⟨.decM1, 0xFFFFFFFF#32, encode c .decM1⟩,
    ⟨.decM2, 0xFFFFFFFF#32, encode c .decM2⟩,
    ⟨.decL2, 0xFFFFFFFF#32, encode c .decL2⟩,
    ⟨.decL4, 0xFFFFFFFF#32, encode c .decL4⟩ ]

/-- The operation of the first row a word matches. -/
def scanRows : List OpcodeRow → BitVec 32 → Option Instr
  | [], _ => none
  | row :: rows, w => if w &&& row.mask = row.pattern then some row.op else scanRows rows w

/-- The host's view of the decoder: the selector is one word, so the instruction whose bits are
`w` is the length `w` itself, its bits above `nbits` zero. -/
def decodeTableWord (nbits w : Nat) : Option Instr :=
  match decodeSelector config (w % 2 ^ nbits) with
  | .ok i => some i
  | .error _ => none

end Sys2Proof
end

