-- ==== Sys2Proof/Machine/State.lean ====
section
/-! DEFINITION. The state of the block (10_state.md R24 to R37), its value after RESET
(70_reset_and_hazards.md R200), and the reasons a step can stop. -/

namespace Sys2Proof.Machine

/-- The buffer memory: (offset, byte) pairs with offsets strictly rising and no pair equal to what
an unlisted offset reads as (`Memory.wf` in Ops.lean). -/
abbrev Memory := List Host.Cell

/-- The register STATUS (10_state.md R25). Code 3 is never produced and has no constructor. -/
inductive Status where
  /-- Code 0: no decode result. -/
  | idle
  /-- Code 1: the last START decoded a recognised format. -/
  | done
  /-- Code 2: the last START raised UnsupportedFormat. -/
  | error
deriving DecidableEq, Repr

/-- What a host read delivers, each at the width of the register or element read
(10_state.md R24 to R33). -/
inductive ReadValue where
  /-- LEN or ERRSIZE, a natural number (log entry 3). -/
  | length (n : Nat)
  /-- The code of STATUS. -/
  | status (code : BitVec 2)
  /-- The code of FMT. -/
  | fmt (code : BitVec 3)
  | width (v : BitVec 10)
  | height (v : BitVec 8)
  | clutLen (v : BitVec 8)
  /-- An entry of CLUT: a PaletteIndex. -/
  | clutEntry (v : PaletteIndex)
  /-- An entry of IDX: a logical colour. -/
  | idxEntry (v : LogicalColour)
  /-- An entry of RGB or PAL on the 24-bit port. -/
  | colour (v : BitVec 24)
deriving DecidableEq, Repr

/-- Why the machine stops with a fault. UnsupportedFormat is none of these: it is an exception the
block takes, and its entry is a next state (60_exceptions.md R183). -/
inductive Fault where
  /-- Raised by a decode whose buffer does not reach to the end of its layout: BufRead is defined
  for offsets below LEN only (00_scope.md R12, 20_memory.md R55). `firstMissing` is LEN, the lowest
  offset outside BUF. No step of the machine raises it: START runs only the operation LEN selects.
  Safe: the model stops where the spec has no such event (log entry 7). -/
  | bufTooShort (firstMissing : Nat)
  /-- Raised under PAL_HI_POLICY = fault only, by a decode that meets a byte above 127 where a
  PaletteIndex stands; `offset` is the lowest such offset (93 U1). This machine's policy is mask, so
  no step raises it. Safe (log entry 2). -/
  | paletteByteHigh (offset : Nat)
deriving DecidableEq, Repr

/-- Why the model gives no next state. -/
inductive Refusal where
  /-- Raised by exec's arm of an operation that has no meaning yet; no arm is left so. Safe. -/
  | notModelled (mnemonic : String)
  /-- Raised by a host read that has no defined value, which a model refuses
  (10_state.md R36, 70_reset_and_hazards.md R206). Safe (log entry 6). -/
  | readHasNoValue (r : HostRead)
deriving DecidableEq, Repr

/-- The state of the block, and of the host's side of its interface. A register that holds no
value (10_state.md R36) is `none`; an entry of CLUT, IDX or RGB holds a value exactly when its index
is below the length of its list. PAL and INTENSITY are constants (Operands.lean, 00_scope.md R9). -/
structure State where
  /-- BUF, the input buffer (R24). -/
  buf : Memory
  /-- LEN, the length of the buffer, a natural number (R24, 92 D3). -/
  len : Nat
  /-- STATUS (R25). -/
  status : Status
  /-- FMT (R26). -/
  fmt : Option Format
  /-- WIDTH (R27). -/
  width : Option (BitVec 10)
  /-- HEIGHT (R27). -/
  height : Option (BitVec 8)
  /-- CLUTLEN (R29). -/
  clutLen : Option (BitVec 8)
  /-- ERRSIZE (R28), a natural number as LEN. -/
  errSize : Option Nat
  /-- CLUT, the stored entries (R31). RawIndexed stores none. -/
  clut : List PaletteIndex
  /-- IDX (R32). -/
  idx : List LogicalColour
  /-- RGB (R33). -/
  rgb : List Rgb
  /-- The model's own: commands the host has issued and the block has not yet performed, oldest
  first (log entry 5). -/
  pending : List HostCommand
  /-- The model's own: the values the host's reads have been answered with, oldest first
  (log entry 5). -/
  replies : List ReadValue
deriving DecidableEq, Repr

/-- The state after RESET (70_reset_and_hazards.md R200): LEN = 0, STATUS = IDLE, no result and no
ERRSIZE. BUF, whose contents R200 leaves unspecified, has nothing listed (log entry 4); no command
is pending and no read has been answered (log entry 5). -/
def State.reset : State :=
  { buf := [], len := 0, status := .idle, fmt := none, width := none, height := none,
    clutLen := none, errSize := none, clut := [], idx := [], rgb := [], pending := [],
    replies := [] }

end Sys2Proof.Machine
end

