-- ==== Sys2Proof/Machine/Operands.lean ====
section
/-! DEFINITION. The operand forms: geometry constants of a format, coordinates, buffer offsets, bit
fields of the buffer's bytes, the palette. All arithmetic is on naturals (00_scope.md R11), each
formula the source's, operator for operator (42_packed_mode1.md). -/

namespace Sys2Proof.Machine

/-! ### Constants of a format (30_encoding.md R82) -/

/-- The code of FMT (10_state.md R26). -/
def formatCode : Format → BitVec 3
  | .rawIndexed => 0
  | .mode1 => 1
  | .mode2 => 2
  | .linear2bpp => 3
  | .linear4bpp => 4

/-- WIDTH (10_state.md R27). -/
def formatWidth (c : Config) : Format → Nat
  | .rawIndexed => c.wideWidth
  | .mode1 => c.narrowWidth
  | .mode2 => c.narrowWidth
  | .linear2bpp => c.wideWidth
  | .linear4bpp => c.narrowWidth

/-- HEIGHT, the same for every format (10_state.md R27). -/
def formatHeight (c : Config) : Format → Nat
  | .rawIndexed => c.height
  | .mode1 => c.height
  | .mode2 => c.height
  | .linear2bpp => c.height
  | .linear4bpp => c.height

/-- The number of pixels, WIDTH · HEIGHT (30_encoding.md R82). -/
def formatPixels (c : Config) (f : Format) : Nat := formatWidth c f * formatHeight c f

/-- PIXLEN, the length in bytes of the pixel region, which starts at offset 0: the data and, for
Mode1 and Mode2, the attribute bytes (20_memory.md R57 to R61). -/
def pixelRegionBytes : Format → Nat
  | .rawIndexed => 512 * 192
  | .mode1 => 32 * 192 + 32 * 24
  | .mode2 => 32 * 192 + 32 * 192
  | .linear2bpp => 128 * 192
  | .linear4bpp => 128 * 192

/-- CLUTLEN (10_state.md R29). -/
def formatClutLen : Format → Nat
  | .rawIndexed => 128
  | .mode1 => 16
  | .mode2 => 16
  | .linear2bpp => 4
  | .linear4bpp => 16

/-- CLUTOFF, the offset of the first CLUT byte: the CLUT is the last CLUTLEN bytes of the layout.
RawIndexed has none (45_assembler.md R160). -/
def clutOffset (c : Config) : Format → Option Nat
  | .rawIndexed => none
  | .mode1 => some (formatSize c .mode1 - formatClutLen .mode1)
  | .mode2 => some (formatSize c .mode2 - formatClutLen .mode2)
  | .linear2bpp => some (formatSize c .linear2bpp - formatClutLen .linear2bpp)
  | .linear4bpp => some (formatSize c .linear4bpp - formatClutLen .linear4bpp)

/-! ### Coordinates (00_scope.md R13; row-major for every format, log entry 9) -/

/-- The position of the pixel (x, y) in a grid `width` pixels wide. -/
def gridPos (width x y : Nat) : Nat := y * width + x

/-- The column of position k. -/
def gridX (width k : Nat) : Nat := k % width

/-- The row of position k. -/
def gridY (width k : Nat) : Nat := k / width

/-! ### Offsets into BUF -/

/-- M1DATA(x, y): the data byte of a Mode1 pixel, rows interleaved (42_packed_mode1.md R120). -/
def m1Data (x y : Nat) : Nat :=
  ((y &&& 0xC0) <<< 5) + ((y &&& 0x38) <<< 2) + ((y &&& 0x07) <<< 8) + ((x &&& 0xF8) >>> 3)

/-- M1ATTR(x, y): the attribute byte of a Mode1 pixel, one per 8×8 cell (42_packed_mode1.md R121,
90_conflicts.md C5). -/
def m1Attr (x y : Nat) : Nat :=
  0x1800 + ((y &&& 0xF8) <<< 2) + ((x &&& 0xF8) >>> 3)

/-- M2DATA(x, y): the data byte of a Mode2 pixel (43_packed_mode2.md R135). -/
def m2Data (x y : Nat) : Nat := (y <<< 5) + ((x &&& 0xF8) >>> 3)

/-- M2ATTR(x, y): the attribute byte of a Mode2 pixel, one per 8×1 run (43_packed_mode2.md R136). -/
def m2Attr (x y : Nat) : Nat := m2Data x y + 0x1800

/-! ### Bit fields of the buffer's bytes -/

/-- `data_mask`: the bit of a data byte that belongs to column x (30_encoding.md R83). -/
def dataMask (x : Nat) : Nat := 1 <<< (7 - (x &&& 0x07))

/-- `bright`: 8 when bit 6 of the attribute byte is set (42_packed_mode1.md R122). -/
def brightValue (attrByte : Byte) : Nat := if attrByte.toNat &&& 0x40 ≠ 0 then 8 else 0

/-- `shift`: 0 selects the foreground field, 3 the background field (42_packed_mode1.md R122). -/
def colourShift (dataByte : Byte) (x : Nat) : Nat :=
  if dataByte.toNat &&& dataMask x ≠ 0 then 0 else 3

/-- ATTRPIX(attr_byte, data_byte, x): the logical colour of a Mode1 or Mode2 pixel
(42_packed_mode1.md R122). The colour fields are 3 bits each (90_conflicts.md C4). -/
def attrPix (attrByte dataByte : Byte) (x : Nat) : Nat :=
  brightValue attrByte + ((attrByte.toNat >>> colourShift dataByte x) &&& 7)

/-- The `bpp`-bit field number `i` of a linear pixel byte, field 0 the least significant
(30_encoding.md R85). -/
def linearField (n : Byte) (bpp i : Nat) : Nat := (n.toNat >>> (bpp * i)) &&& ((1 <<< bpp) - 1)

/-- The pixels held by one byte, PPB = 8 / bpp (44_linear.md R145). -/
def pixelsPerByte (bpp : Nat) : Nat := 8 / bpp

/-- UNPACK(n, bpp): the pixel values of one byte, leftmost (most significant) first
(44_linear.md R145). -/
def unpack (n : Byte) (bpp : Nat) : List Nat :=
  (List.range (pixelsPerByte bpp)).reverse.map (linearField n bpp)

/-- The byte that holds pixel k of a linear format (44_linear.md R146). -/
def linearOffset (bpp k : Nat) : Nat := k / pixelsPerByte bpp

/-- LINPIX(k, bpp), from the byte at `linearOffset bpp k` (44_linear.md R146). -/
def linearPix (n : Byte) (bpp k : Nat) : Nat :=
  linearField n bpp (pixelsPerByte bpp - 1 - k % pixelsPerByte bpp)

/-- A byte reduced to the PaletteIndex in its low 7 bits (30_encoding.md R86; log entry 2). -/
def paletteIndexOfByte (b : Byte) : PaletteIndex := BitVec.ofNat 7 (b.toNat &&& 0x7F)

/-! ### The palette (40_palette.md) -/

/-- INTENSITY[n] (10_state.md R34); every index the palette forms is 0 to 7 (`Laws.redIndex_lt` and
its like). -/
def intensity (c : Config) (n : Nat) : Byte := c.intensity.getD n 0x00

/-- The red intensity index of PaletteIndex i (40_palette.md R100). -/
def redIndex (i : Nat) : Nat := (i &&& 0x02) ||| ((i &&& 0x20) >>> 3) ||| ((i &&& 0x08) >>> 3)

/-- The green intensity index of PaletteIndex i (40_palette.md R100). -/
def greenIndex (i : Nat) : Nat :=
  ((i &&& 0x04) >>> 1) ||| ((i &&& 0x40) >>> 4) ||| ((i &&& 0x08) >>> 3)

/-- The blue intensity index of PaletteIndex i (40_palette.md R100). -/
def blueIndex (i : Nat) : Nat :=
  ((i &&& 0x01) <<< 1) ||| ((i &&& 0x10) >>> 2) ||| ((i &&& 0x08) >>> 3)

/-- PALRGB(i) (40_palette.md R100), which is also PAL[i] (R101). -/
def palRgb (c : Config) (i : PaletteIndex) : Rgb :=
  { r := intensity c (redIndex i.toNat)
    g := intensity c (greenIndex i.toNat)
    b := intensity c (blueIndex i.toNat) }

/-- An RGB triple on a 24-bit port: r in bits 23:16, g in 15:8, b in 7:0 (10_state.md R30,
45_assembler.md R168). -/
def rgbPort (t : Rgb) : BitVec 24 := t.r ++ t.g ++ t.b

/-! ### Lists indexed by position -/

/-- The values of `f` at the `n` positions from `k` on, in order. -/
def tabulateFrom {α : Type} (f : Nat → α) : Nat → Nat → List α
  | _, 0 => []
  | k, n + 1 => f k :: tabulateFrom f (k + 1) n

/-- The values of `f` at positions 0 to n-1: the element writes of a loop over k, each made once
(20_memory.md R64). -/
def tabulate {α : Type} (n : Nat) (f : Nat → α) : List α := tabulateFrom f 0 n

end Sys2Proof.Machine
end

