-- ==== Sys2Proof/Machine/Flags.lean ====
section
/-! DEFINITION. The block has no flags and no operation sets or reads one (10_state.md R22). What it
reports of itself is STATUS: its code, and the two level outputs that are functions of it. -/

namespace Sys2Proof.Machine

/-- The code of STATUS (10_state.md R25). -/
def statusCode : Status → BitVec 2
  | .idle => 0
  | .done => 1
  | .error => 2

/-- The level output `done` (60_exceptions.md R187). -/
def State.doneOutput (s : State) : Bool := decide (s.status = .done)

/-- The level output `error` (60_exceptions.md R187). -/
def State.errorOutput (s : State) : Bool := decide (s.status = .error)

end Sys2Proof.Machine
end

