-- ==== Sys2Proof/Machine/Ops.lean ====
section
/-! DEFINITION. The named operations: the buffer memory, the common tail of a decode, taking the
exception UnsupportedFormat, RESET, LOAD and the host's reads. The exception has no return
(60_exceptions.md R186): LOAD and RESET leave it. -/

namespace Sys2Proof.Machine

/-! ### The buffer memory -/

/-- What an unlisted offset reads as. DESIGN CHOICE (log entry 4): R200 leaves the contents of BUF
after reset unspecified, and no offset is in range until a LOAD has written it. -/
def unlistedByte : Byte := 0x00

/-- The byte at an offset. -/
def Memory.read : Memory → Nat → Byte
  | [], _ => unlistedByte
  | (b, w) :: m, a => if a = b then w else Memory.read m a

/-- Write one byte, keeping the canonical form. -/
def Memory.write : Memory → Nat → Byte → Memory
  | [], a, v => if v = unlistedByte then [] else [(a, v)]
  | (b, w) :: m, a, v =>
    if a < b then (if v = unlistedByte then (b, w) :: m else (a, v) :: (b, w) :: m)
    else if a = b then (if v = unlistedByte then m else (a, v) :: m)
    else (b, w) :: Memory.write m a v

/-- Write a sequence of bytes from offset `a` on. -/
def Memory.writeBytes : Memory → Nat → List Byte → Memory
  | m, _, [] => m
  | m, a, v :: vs => Memory.writeBytes (m.write a v) (a + 1) vs

/-- The canonical form for offsets from `lo` on: strictly rising, no unlisted value listed. -/
def Memory.wfFrom : Nat → Memory → Bool
  | _, [] => true
  | lo, (a, v) :: m => decide (lo ≤ a) && (decide (v ≠ unlistedByte) && Memory.wfFrom (a + 1) m)

/-- The canonical form of a memory. -/
def Memory.wf (m : Memory) : Bool := Memory.wfFrom 0 m

/-- BufRead(a) (00_scope.md R12), for a decode that `runDecode` has found to be in range. -/
def bufRead (s : State) (a : Nat) : Byte := s.buf.read a

/-! ### Updates of the state -/

/-- Result state and ERRSIZE lose their value and STATUS is IDLE: what LOAD does
(70_reset_and_hazards.md R203) and what START does first (R204). -/
def State.discardResult (s : State) : State :=
  { s with status := .idle, fmt := none, width := none, height := none, clutLen := none,
           errSize := none, clut := [], idx := [], rgb := [] }

/-- Another buffer memory and length. -/
def State.withBuffer (s : State) (m : Memory) (n : Nat) : State := { s with buf := m, len := n }

/-- The result of a decode of format `f`, with its geometry registers and STATUS = DONE
(45_assembler.md R165). -/
def State.withResult (s : State) (c : Config) (f : Format) (clut : List PaletteIndex)
    (idx : List LogicalColour) (rgb : List Rgb) : State :=
  { s with status := .done, fmt := some f, width := some (BitVec.ofNat 10 (formatWidth c f)),
           height := some (BitVec.ofNat 8 (formatHeight c f)),
           clutLen := some (BitVec.ofNat 8 (formatClutLen f)), errSize := none, clut := clut,
           idx := idx, rgb := rgb }

/-- Other commands pending (log entry 5). -/
def State.withPending (s : State) (cs : List HostCommand) : State := { s with pending := cs }

/-- One more answer to the host (log entry 5). -/
def State.withReply (s : State) (v : ReadValue) : State := { s with replies := s.replies ++ [v] }

/-! ### The exception (60_exceptions.md) -/

/-- Taking UnsupportedFormat(n): ERRSIZE <- n, STATUS <- ERROR, no result state; BUF and LEN stay
(60_exceptions.md R183). -/
def takeUnsupportedFormat (n : Nat) (s : State) : State :=
  { s with status := .error, fmt := none, width := none, height := none, clutLen := none,
           errSize := some n, clut := [], idx := [], rgb := [] }

/-! ### The common tail of a decode (45_assembler.md R165) -/

/-- CLUT[j] of a decode of format `f`: the identity for RawIndexed (R162), the CLUT byte's low
7 bits for the others (R161). -/
def clutAt (c : Config) (f : Format) (s : State) (j : Nat) : PaletteIndex :=
  match clutOffset c f with
  | none => BitVec.ofNat 7 j
  | some off => paletteIndexOfByte (bufRead s (off + j))

/-- CLUTLOAD: the stored CLUT entries, in file order; none for RawIndexed (R161, R162). -/
def clutLoad (c : Config) (f : Format) (s : State) : List PaletteIndex :=
  match clutOffset c f with
  | none => []
  | some _ => tabulate (formatClutLen f) (clutAt c f s)

/-- CLUTMAP: RGB[k] = PAL[CLUT[IDX[k]]] for every k (R163). -/
def clutMap (c : Config) (f : Format) (s : State) (idx : List LogicalColour) : List Rgb :=
  idx.map (fun v => palRgb c (clutAt c f s v.toNat))

/-- The lowest of the `n` offsets from `a` on that holds a byte above 127. -/
def firstHighByte (s : State) : Nat → Nat → Option Nat
  | _, 0 => none
  | a, n + 1 => if 127 < (bufRead s a).toNat then some a else firstHighByte s (a + 1) n

/-- The lowest offset of a byte above 127 among those format `f` uses as PaletteIndex values: the
pixels of RawIndexed, the CLUT region of the others (93 U1). -/
def highPaletteByte (c : Config) (f : Format) (s : State) : Option Nat :=
  match clutOffset c f with
  | none => firstHighByte s 0 (formatSize c f)
  | some off => firstHighByte s off (formatClutLen f)

/-- Whether PAL_HI_POLICY stops the decode, and at which offset (93 U1, log entry 2). -/
def palHiStop (c : Config) (f : Format) (s : State) : Option Nat :=
  match c.palHiPolicy with
  | .mask => none
  | .fault => highPaletteByte c f s

/-- A decode of format `f` whose pixel loop writes `pixels` to IDX: the range of BUF
(20_memory.md R55, log entry 7), PAL_HI_POLICY, then CLUTLOAD, the geometry registers, the RGB loop
and STATUS (45_assembler.md R165). -/
def runDecode (c : Config) (f : Format) (pixels : List LogicalColour) (s : State) :
    Host.Outcome State Fault Refusal :=
  if s.len < formatSize c f then .fault (.bufTooShort s.len)
  else
    match palHiStop c f s with
    | some a => .fault (.paletteByteHigh a)
    | none => .next (s.withResult c f (clutLoad c f s) pixels (clutMap c f s pixels))

/-! ### The host's commands and reads (70_reset_and_hazards.md) -/

/-- RESET: the reset state of the block whatever its state before (R200). What the host has issued
and what it has been answered is the host's and stays (log entry 5). -/
def hostReset (s : State) : State :=
  { State.reset with pending := s.pending, replies := s.replies }

/-- LOAD(b): LEN <- n, the first BUF_CAP bytes stored, STATUS <- IDLE, no result (R203). -/
def hostLoad (c : Config) (b : List Byte) (s : State) : State :=
  (s.withBuffer (s.buf.writeBytes 0 (b.take c.bufCap)) b.length).discardResult

/-- A value readable only while STATUS = DONE (R36, R206). -/
def whenDone (s : State) (v : Option ReadValue) : Option ReadValue :=
  if s.status = .done then v else none

/-- CLUT[j] as the host reads it, j < CLUTLEN: for RawIndexed the read returns j (R206). -/
def readClut (s : State) (j : Nat) : Option PaletteIndex :=
  match s.fmt with
  | some .rawIndexed => if j < formatClutLen .rawIndexed then some (BitVec.ofNat 7 j) else none
  | _ => s.clut[j]?

/-- The element of a grid at the pair (x, y), for x below WIDTH and y below HEIGHT (R13, R32). -/
def gridAt {α : Type} (s : State) (grid : List α) (x y : Nat) : Option α :=
  match s.width, s.height with
  | some w, some h =>
    if x < w.toNat ∧ y < h.toNat then grid[gridPos w.toNat x y]? else none
  | _, _ => none

/-- The value a host read delivers, or none where it has no defined value (R206, R36). -/
def hostRead (c : Config) (r : HostRead) (s : State) : Option ReadValue :=
  match r with
  | .len => some (.length s.len)
  | .status => some (.status (statusCode s.status))
  | .fmt => whenDone s (s.fmt.map fun f => .fmt (formatCode f))
  | .width => whenDone s (s.width.map .width)
  | .height => whenDone s (s.height.map .height)
  | .clutLen => whenDone s (s.clutLen.map .clutLen)
  | .errSize => if s.status = .error then s.errSize.map .length else none
  | .clut j => whenDone s ((readClut s j).map .clutEntry)
  | .idx k => whenDone s (s.idx[k]?.map .idxEntry)
  | .rgb k => whenDone s (s.rgb[k]?.map fun t => .colour (rgbPort t))
  | .idxAt x y => whenDone s ((gridAt s s.idx x y).map .idxEntry)
  | .rgbAt x y => whenDone s ((gridAt s s.rgb x y).map fun t => .colour (rgbPort t))
  | .pal i => if i < c.palEntries then some (.colour (rgbPort (palRgb c (BitVec.ofNat 7 i)))) else none

/-- The selector as START samples it: LEN, once, at the start of DECODE (20_memory.md R66). -/
def fetchSelector (s : State) : Nat := s.len

end Sys2Proof.Machine
end

