-- ==== Sys2Proof/Machine/Linear.lean ====
section
/-! DEFINITION. DEC.L2 and DEC.L4, the 2-bit and 4-bit packed linear modes (44_linear.md). -/

namespace Sys2Proof.Machine

/-- LINPIX(k, bpp) on the buffer (44_linear.md R146). -/
def linearPixel (s : State) (bpp k : Nat) : LogicalColour :=
  BitVec.ofNat 7 (linearPix (bufRead s (linearOffset bpp k)) bpp k)

/-- The Linear2bpp decode under a configuration (44_linear.md R147). -/
def decodeL2 (c : Config) (s : State) : Host.Outcome State Fault Refusal :=
  runDecode c .linear2bpp (tabulate (formatPixels c .linear2bpp) (linearPixel s 2)) s

/-- The Linear4bpp decode under a configuration (44_linear.md R148). -/
def decodeL4 (c : Config) (s : State) : Host.Outcome State Fault Refusal :=
  runDecode c .linear4bpp (tabulate (formatPixels c .linear4bpp) (linearPixel s 4)) s

/-- DEC.L2 (44_linear.md R147). -/
def execDecL2 (s : State) : Host.Outcome State Fault Refusal := decodeL2 config s

/-- DEC.L4 (44_linear.md R148). -/
def execDecL4 (s : State) : Host.Outcome State Fault Refusal := decodeL4 config s

end Sys2Proof.Machine
end

