-- ==== Sys2Proof/Machine/Packed.lean ====
section
/-! DEFINITION. DEC.M1 and DEC.M2, the attribute modes (42_packed_mode1.md, 43_packed_mode2.md). -/

namespace Sys2Proof.Machine

/-- The Mode1 pixel at (x, y) (42_packed_mode1.md R124). -/
def mode1Pixel (s : State) (x y : Nat) : LogicalColour :=
  BitVec.ofNat 7 (attrPix (bufRead s (m1Attr x y)) (bufRead s (m1Data x y)) x)

/-- The Mode2 pixel at (x, y) (43_packed_mode2.md R137). -/
def mode2Pixel (s : State) (x y : Nat) : LogicalColour :=
  BitVec.ofNat 7 (attrPix (bufRead s (m2Attr x y)) (bufRead s (m2Data x y)) x)

/-- The Mode1 decode under a configuration (42_packed_mode1.md R124). -/
def decodeM1 (c : Config) (s : State) : Host.Outcome State Fault Refusal :=
  runDecode c .mode1 (tabulate (formatPixels c .mode1) (fun k =>
    mode1Pixel s (gridX (formatWidth c .mode1) k) (gridY (formatWidth c .mode1) k))) s

/-- The Mode2 decode under a configuration (43_packed_mode2.md R137). -/
def decodeM2 (c : Config) (s : State) : Host.Outcome State Fault Refusal :=
  runDecode c .mode2 (tabulate (formatPixels c .mode2) (fun k =>
    mode2Pixel s (gridX (formatWidth c .mode2) k) (gridY (formatWidth c .mode2) k))) s

/-- DEC.M1 (42_packed_mode1.md R124). -/
def execDecM1 (s : State) : Host.Outcome State Fault Refusal := decodeM1 config s

/-- DEC.M2 (43_packed_mode2.md R137). -/
def execDecM2 (s : State) : Host.Outcome State Fault Refusal := decodeM2 config s

end Sys2Proof.Machine
end

