-- ==== Sys2Proof/Machine/Raw.lean ====
section
/-! DEFINITION. DEC.RAW, the RawIndexed pass-through (45_assembler.md R162, R166). -/

namespace Sys2Proof.Machine

/-- RAWPIX(k): the byte at offset k is a PaletteIndex (45_assembler.md R162). -/
def rawPix (s : State) (k : Nat) : LogicalColour := paletteIndexOfByte (bufRead s k)

/-- The RawIndexed decode under a configuration: all 98304 bytes are pixels, none is a CLUT
(45_assembler.md R166, R167). -/
def decodeRaw (c : Config) (s : State) : Host.Outcome State Fault Refusal :=
  runDecode c .rawIndexed (tabulate (formatPixels c .rawIndexed) (rawPix s)) s

/-- DEC.RAW (45_assembler.md R166). -/
def execDecRaw (s : State) : Host.Outcome State Fault Refusal := decodeRaw config s

end Sys2Proof.Machine
end

