-- ==== Sys2Proof/Machine/Dispatch.lean ====
section
/-! DEFINITION. The meaning of every operation of opcode_table.json (41_classifier.md R113). -/

namespace Sys2Proof.Machine

def exec (i : Instr) (s : State) : Host.Outcome State Fault Refusal :=
  match i with
  | .decRaw => Sys2Proof.Machine.execDecRaw s
  | .decM1 => Sys2Proof.Machine.execDecM1 s
  | .decM2 => Sys2Proof.Machine.execDecM2 s
  | .decL2 => Sys2Proof.Machine.execDecL2 s
  | .decL4 => Sys2Proof.Machine.execDecL4 s

end Sys2Proof.Machine
end

