-- ==== Sys2Proof/Machine/HostPort.lean ====
section
/-! DEFINITION. What each host command does (70_reset_and_hazards.md section 2). -/

namespace Sys2Proof.Machine

/-- START: discard the old result and ERRSIZE, then DECODE: the operation LEN selects, or the
exception (70_reset_and_hazards.md R204, 45_assembler.md R165). -/
def startDecode (s : State) : Host.Outcome State Fault Refusal :=
  match decodeSelector config (fetchSelector s) with
  | .ok i => exec i s.discardResult
  | .error (.unsupportedFormat n) => .next (takeUnsupportedFormat n s.discardResult)

/-- A read: the answer goes to the host and the block does not change (20_memory.md R54); a read
without a defined value is refused (R206). -/
def answerRead (r : HostRead) (s : State) : Host.Outcome State Fault Refusal :=
  match hostRead config r s with
  | some v => .next (s.withReply v)
  | none => .refused (.readHasNoValue r)

/-- One host command, already taken from `pending`. -/
def runCommand (cmd : HostCommand) (s : State) : Host.Outcome State Fault Refusal :=
  match cmd with
  | .reset => .next (hostReset s)
  | .load b => .next (hostLoad config b s)
  | .start => startDecode s
  | .read r => answerRead r s

end Sys2Proof.Machine
end

