-- ==== Sys2Proof/Machine/Step.lean ====
section
/-! DEFINITION. One step of the machine: the oldest host command still pending. Between commands
the block holds its state (60_exceptions.md R192). -/

namespace Sys2Proof.Machine

/-- One step (00_scope.md R8; log entry 5). -/
def step (s : State) : Host.Outcome State Fault Refusal :=
  match s.pending with
  | [] => .next s
  | cmd :: rest => runCommand cmd (s.withPending rest)

/-- `s` with the selector `w` in LEN and a START as the next command, so that the next step runs the
operation `w` selects (20_memory.md R66). It stands for a LOAD of `w` bytes, whose values the fetch
does not need, and a START (log entry 5). -/
def State.withFetchWord (s : State) (nbits w : Nat) : State :=
  { s with len := w % 2 ^ nbits, pending := .start :: s.pending }

end Sys2Proof.Machine
end

