-- ==== Sys2Proof/Safety.lean ====
section
/-! DEFINITION. What counts as a safe state and a safe run, in the terms the statements use. -/

namespace Sys2Proof.Safety

open Sys2Proof.Machine

/-- The logical colour read as bit fields: {BRIGHT, FG} where the pixel's data bit is 1, {BRIGHT, BG}
where it is 0 (30_encoding.md R83, R84; 42_packed_mode1.md R122). -/
def attrColour (a d : Byte) (x : Nat) : Nat :=
  (if a.getLsbD 6 then 8 else 0)
    + (if d.getLsbD (7 - x % 8) then (a.extractLsb' 0 3).toNat else (a.extractLsb' 3 3).toNat)

/-- BUF, every byte of it, and LEN are unchanged. -/
def InputKept (s t : State) : Prop :=
  t.len = s.len ∧ t.buf = s.buf ∧ ∀ a, bufRead t a = bufRead s a

/-- The host's side of the interface is unchanged. -/
def HostSideKept (s t : State) : Prop := t.pending = s.pending ∧ t.replies = s.replies

/-- No register or memory of the result holds a value (10_state.md R36). -/
def NoResult (s : State) : Prop :=
  s.fmt = none ∧ s.width = none ∧ s.height = none ∧ s.clutLen = none ∧ s.clut = [] ∧ s.idx = []
    ∧ s.rgb = []

/-- STATUS = DONE with these result registers, and no ERRSIZE (10_state.md R25 to R29, R36). -/
def DoneAs (t : State) (f : Format) (w : BitVec 10) (h n : BitVec 8) : Prop :=
  t.status = .done ∧ t.fmt = some f ∧ t.width = some w ∧ t.height = some h ∧ t.clutLen = some n
    ∧ t.errSize = none

/-- The raster has `n` entries and RGB[k] = PAL[CLUT[IDX[k]]] for each (45_assembler.md R163). -/
def RasterComposed (t : State) (n : Nat) : Prop :=
  t.rgb.length = n ∧
    ∀ k, k < n → ∃ v p, t.idx[k]? = some v ∧ readClut t v.toNat = some p ∧
      t.rgb[k]? = some (palRgb config p)

/-- Two states hold the same status and the same result (the outcome of a START). -/
def SameOutcome (t u : State) : Prop :=
  t.status = u.status ∧ t.fmt = u.fmt ∧ t.width = u.width ∧ t.height = u.height ∧
    t.clutLen = u.clutLen ∧ t.errSize = u.errSize ∧ t.clut = u.clut ∧ t.idx = u.idx ∧ t.rgb = u.rgb

/-- The result held is exactly what DECODE makes of the buffer held. -/
def DecodedFromBuffer (s : State) : Prop :=
  ∃ i, decodeSelector config s.len = .ok i ∧ exec i s = .next s

/-- STATUS and the state it validates agree (10_state.md R25, R36): a result only in DONE, and then
the decode of the present buffer; ERRSIZE only in ERROR, and then the rejected LEN. -/
def StatusAgrees (s : State) : Prop :=
  match s.status with
  | .idle => NoResult s ∧ s.errSize = none
  | .done => DecodedFromBuffer s
  | .error =>
    NoResult s ∧ s.errSize = some s.len ∧
      decodeSelector config s.len = .error (.unsupportedFormat s.len)

/-- The invariant of the machine: the buffer memory is canonical and inside BUF_CAP
(10_state.md R24), and STATUS agrees with what it validates (R36). -/
def Inv (s : State) : Prop :=
  s.buf.wf = true ∧ (∀ cell ∈ s.buf, cell.1 < config.bufCap) ∧ StatusAgrees s

/-- The conditions under which a host read has a defined value (70_reset_and_hazards.md R206). -/
def ReadAllowed (r : HostRead) (s : State) : Prop :=
  match r with
  | .len => True
  | .status => True
  | .fmt => s.status = .done
  | .width => s.status = .done
  | .height => s.status = .done
  | .clutLen => s.status = .done
  | .errSize => s.status = .error
  | .clut j => s.status = .done ∧ ∃ f, s.fmt = some f ∧ j < formatClutLen f
  | .idx k => s.status = .done ∧ ∃ f, s.fmt = some f ∧ k < formatPixels config f
  | .rgb k => s.status = .done ∧ ∃ f, s.fmt = some f ∧ k < formatPixels config f
  | .idxAt x y => s.status = .done ∧ ∃ f, s.fmt = some f ∧ x < formatWidth config f ∧
      y < formatHeight config f
  | .rgbAt x y => s.status = .done ∧ ∃ f, s.fmt = some f ∧ x < formatWidth config f ∧
      y < formatHeight config f
  | .pal i => i < 128

/-- A run of the pending commands that ends with none pending. -/
def RunEnds (s t : State) : Prop :=
  Sys2Proof.core.run s.pending.length s = .next t ∧ t.pending = []

end Sys2Proof.Safety
end

