-- ==== Sys2Proof/Certificates/Slice0/Obligations.lean ====
section
/-! DEFINITION. The statements for the provers. Each formalises rules of spec/ (cited in
OBLIGATIONS.json); where a statement says what the MODEL chose, its docstring names the log entry.
Throughout, `pending` and `replies` (the host's commands waiting and answers received) are the
model's own fields (log entry 5), `none` and an entry past a list's end are its form of the spec's
"no value" (log entry 6), and `Memory.wf` is the canonical form of its byte list (log entry 4). -/

open Sys2Proof Sys2Proof.Machine Sys2Proof.Safety

/-! ### The selector (30_encoding.md, 41_classifier.md) -/

/-- The words of the selector table, written out, decode to their operations (R81); the word of
7120, the size of Mode1 this machine does not take (MODE1_SIZE = 6928, a DESIGN CHOICE, log entry 1),
decodes to none (R88). -/
def Obligations.SelectorWordsDecode : Prop :=
  decodeTableWord 32 0b00000000000000011000000000000000 = some .decRaw ∧
  decodeTableWord 32 0b00000000000000000001101100010000 = some .decM1 ∧
  decodeTableWord 32 0b00000000000000000011000000010000 = some .decM2 ∧
  decodeTableWord 32 0b00000000000000000110000000000100 = some .decL2 ∧
  decodeTableWord 32 0b00000000000000000110000000010000 = some .decL4 ∧
  decodeTableWord 32 0b00000000000000000001101111010000 = none

/-- Decode and encode agree, for every operation and every admissible configuration, in both
directions: the length selects an operation exactly when it equals that operation's word, every bit
taking part (R80). -/
def Obligations.SelectsExactlyOnEqualSize : Prop :=
  ∀ (c : Config) (i : Instr), c.wf = true → i.wf = true →
    decodeWord c (encode c i) = .ok i ∧
    ∀ n : Nat, decodeSelector c n = .ok i ↔ n = (encode c i).toNat

/-- Every other length, however large, raises UnsupportedFormat with that length (R88). -/
def Obligations.OtherSizesUnsupported : Prop :=
  ∀ (c : Config) (n : Nat), c.wf = true → (∀ i, n ≠ (encode c i).toNat) →
    decodeSelector c n = .error (.unsupportedFormat n)

/-- CLASSIFY (R110): each format on exactly its size, the error on every other length, and the five
sizes pairwise different, so that the order of the tests does not matter. -/
def Obligations.ClassifyBySizeAlone : Prop :=
  ∀ c : Config, c.wf = true →
    (∀ n f, classify c n = .ok f ↔
      n = match f with
        | .rawIndexed => 98304
        | .mode1 => (match c.mode1Size with | .byFormula => 6928 | .asPrinted => 7120)
        | .mode2 => 12304
        | .linear2bpp => 24580
        | .linear4bpp => 24592) ∧
    (∀ n e, classify c n = .error e ↔
      e = .unsupportedFormat n ∧ ∀ f, n ≠ formatSize c f) ∧
    (∀ f g, formatSize c f = formatSize c g → f = g)

/-- The classifier and a scan of the rows of opcode_table.json, each with its mask and pattern,
choose the same operation for every 32-bit word. -/
def Obligations.TableScanAgreesWithClassifier : Prop :=
  ∀ (c : Config) (w : BitVec 32) (i : Instr), c.wf = true →
    (scanRows (opcodeRows c) w = some i ↔ decodeWord c w = .ok i)

/-! ### The palette (40_palette.md) -/

/-- PALRGB by the bit fields of R87: the intensity index of each component is one high bit, one
middle bit and the shared bit 3, and selects from the eight levels of INTENSITY (R100). -/
def Obligations.PaletteByBitFields : Prop :=
  ∀ c : Config, c.wf = true →
  c.intensity = [0x00#8, 0x24#8, 0x49#8, 0x6d#8, 0x92#8, 0xb6#8, 0xdb#8, 0xff#8] ∧
  ∀ i : PaletteIndex,
    c.intensity[4 * (i.getLsbD 5).toNat + 2 * (i.getLsbD 1).toNat + (i.getLsbD 3).toNat]? =
      some (palRgb c i).r ∧
    c.intensity[4 * (i.getLsbD 6).toNat + 2 * (i.getLsbD 2).toNat + (i.getLsbD 3).toNat]? =
      some (palRgb c i).g ∧
    c.intensity[4 * (i.getLsbD 4).toNat + 2 * (i.getLsbD 0).toNat + (i.getLsbD 3).toNat]? =
      some (palRgb c i).b

/-- Every component of every palette entry is an intensity level, and the 128 entries are pairwise
different (R102). -/
def Obligations.PaletteEntriesDistinct : Prop :=
  ∀ c : Config, c.wf = true →
  (∀ i : PaletteIndex, (palRgb c i).r ∈ c.intensity ∧ (palRgb c i).g ∈ c.intensity ∧
    (palRgb c i).b ∈ c.intensity) ∧
  ∀ i j : PaletteIndex, palRgb c i = palRgb c j → i = j

/-- The palette's formulas on an 8-bit value give what they give on its low 7 bits, so the mask of a
palette byte changes no colour (R103). -/
def Obligations.PaletteIgnoresBitSeven : Prop :=
  ∀ b : Byte,
    redIndex b.toNat = redIndex (paletteIndexOfByte b).toNat ∧
    greenIndex b.toNat = greenIndex (paletteIndexOfByte b).toNat ∧
    blueIndex b.toNat = blueIndex (paletteIndexOfByte b).toNat

/-- A triple on the 24-bit port is {r, g, b}, r in bits 23:16 (R30, R168). -/
def Obligations.PortPacksRedHighest : Prop :=
  ∀ t : Rgb, (rgbPort t).extractLsb' 16 8 = t.r ∧ (rgbPort t).extractLsb' 8 8 = t.g ∧
    (rgbPort t).extractLsb' 0 8 = t.b

/-! ### Addresses and pixel fields -/

/-- M1DATA: three bands of 2048 bytes, 256-byte blocks by the row's low three bits, 32-byte lines by
its middle three, one-to-one from (x div 8, y) onto 0 to 6143 (R120). -/
def Obligations.Mode1DataInterleaved : Prop :=
  (∀ x y, x < 256 → y < 192 →
    m1Data x y = 2048 * (y / 64) + 256 * (y % 8) + 32 * (y / 8 % 8) + x / 8 ∧ m1Data x y < 6144) ∧
  ∀ a, a < 6144 → ∃ x y, x < 256 ∧ y < 192 ∧ m1Data x y = a ∧
    ∀ x' y', x' < 256 → y' < 192 → m1Data x' y' = a → x' / 8 = x / 8 ∧ y' = y

/-- M1ATTR: one attribute byte for each 8×8 cell, 32 cells a cell row, offsets 6144 to 6911
(R121). -/
def Obligations.Mode1AttrPerCell : Prop :=
  ∀ x y x' y', x < 256 → y < 192 → x' < 256 → y' < 192 →
    m1Attr x y = 6144 + 32 * (y / 8) + x / 8 ∧ 6144 ≤ m1Attr x y ∧ m1Attr x y ≤ 6911 ∧
    (m1Attr x y = m1Attr x' y' ↔ x / 8 = x' / 8 ∧ y / 8 = y' / 8)

/-- M2DATA and M2ATTR: rows in order, one-to-one onto 0 to 6143, each data byte with an attribute
byte of its own 6144 bytes further on (R135, R136). -/
def Obligations.Mode2OffsetsLinear : Prop :=
  (∀ x y, x < 256 → y < 192 → m2Data x y = 32 * y + x / 8 ∧ m2Data x y < 6144 ∧
    m2Attr x y = m2Data x y + 6144 ∧ m2Attr x y ≤ 12287) ∧
  ∀ a, a < 6144 → ∃ x y, x < 256 ∧ y < 192 ∧ m2Data x y = a ∧
    ∀ x' y', x' < 256 → y' < 192 → m2Data x' y' = a → x' / 8 = x / 8 ∧ y' = y

/-- ATTRPIX reads the fields of R83 and R84: {BRIGHT, FG} for a set data bit, {BRIGHT, BG} for a
clear one, 0 to 15; bit 7 of the attribute byte never matters; where FG = BG the data byte does not
(R122). -/
def Obligations.AttrPixSelectsField : Prop :=
  ∀ (a d : Byte) (x : Nat),
    attrPix a d x = attrColour a d x ∧ attrPix a d x < 16 ∧
    attrPix (a ^^^ 0x80#8) d x = attrPix a d x ∧
    (a.extractLsb' 0 3 = a.extractLsb' 3 3 → ∀ d' : Byte, attrPix a d' x = attrPix a d x)

/-- UNPACK gives the fields of a byte, most significant first (R145). -/
def Obligations.UnpackMostSignificantFirst : Prop :=
  ∀ n : Byte,
    unpack n 4 = [(n.extractLsb' 4 4).toNat, (n.extractLsb' 0 4).toNat] ∧
    unpack n 2 = [(n.extractLsb' 6 2).toNat, (n.extractLsb' 4 2).toNat,
      (n.extractLsb' 2 2).toNat, (n.extractLsb' 0 2).toNat]

/-- Every offset a decode of any format and configuration reads lies inside its layout (R55): the
pixel offsets inside the pixel region, the CLUT bytes after it and before the end, so that no CLUT
byte is read as a pixel; and every layout fits the buffer memory. -/
def Obligations.DecodeOffsetsInRange : Prop :=
  ∀ c : Config, c.wf = true →
    (∀ k, k < formatPixels c .rawIndexed → k < pixelRegionBytes .rawIndexed) ∧
    (∀ x y, x < 256 → y < 192 → m1Data x y < pixelRegionBytes .mode1 ∧
      m1Attr x y < pixelRegionBytes .mode1) ∧
    (∀ x y, x < 256 → y < 192 → m2Data x y < pixelRegionBytes .mode2 ∧
      m2Attr x y < pixelRegionBytes .mode2) ∧
    (∀ k, k < formatPixels c .linear2bpp → linearOffset 2 k < pixelRegionBytes .linear2bpp) ∧
    (∀ k, k < formatPixels c .linear4bpp → linearOffset 4 k < pixelRegionBytes .linear4bpp) ∧
    (∀ f off j, clutOffset c f = some off → j < formatClutLen f →
      pixelRegionBytes f ≤ off ∧ off + j < formatSize c f) ∧
    ∀ f, pixelRegionBytes f ≤ formatSize c f ∧ formatSize c f ≤ c.bufCap

/-! ### The five operations: result and frame -/

/-- DEC.RAW (R166): every byte is a pixel; CLUT the identity on 0 to 127 and not stored; the raster
is the palette of the pixels; BUF, LEN and the host's side unchanged. That a byte above 127 is taken
by its low 7 bits, in IDX and in RGB, is PAL_HI_POLICY = mask, a DESIGN CHOICE (the spec's D4, log
entry 2). -/
def Obligations.DecRawResult : Prop :=
  ∀ s : State, s.len = 98304 → ∃ t, exec .decRaw s = .next t ∧
    DoneAs t .rawIndexed 512#10 192#8 128#8 ∧
    t.idx.length = 98304 ∧
    (∀ k, k < 98304 → t.idx[k]? = some ((bufRead s k).setWidth 7)) ∧
    t.clut = [] ∧ (∀ j, j < 128 → readClut t j = some (BitVec.ofNat 7 j)) ∧
    t.rgb.length = 98304 ∧
    (∀ k, k < 98304 → t.rgb[k]? = some (palRgb config ((bufRead s k).setWidth 7))) ∧
    InputKept s t ∧ HostSideKept s t

/-- DEC.M1 on this machine, MODE1_SIZE = 6928 (a DESIGN CHOICE, log entry 1): the interleaved data
byte, the attribute byte of the 8×8 cell, the CLUT at 6912; BUF, LEN and the host's side unchanged.
The low 7 bits of a CLUT byte above 127 are PAL_HI_POLICY = mask, a DESIGN CHOICE (the spec's D4, log
entry 2). -/
def Obligations.DecM1Result : Prop :=
  ∀ s : State, s.len = 6928 → ∃ t, exec .decM1 s = .next t ∧
    DoneAs t .mode1 256#10 192#8 16#8 ∧
    t.idx.length = 49152 ∧
    (∀ x y, x < 256 → y < 192 → t.idx[y * 256 + x]? = some (BitVec.ofNat 7 (attrColour
      (bufRead s (0x1800 + 32 * (y / 8) + x / 8))
      (bufRead s (2048 * (y / 64) + 256 * (y % 8) + 32 * (y / 8 % 8) + x / 8)) x))) ∧
    t.clut.length = 16 ∧
    (∀ j, j < 16 → t.clut[j]? = some ((bufRead s (6912 + j)).setWidth 7)) ∧
    RasterComposed t 49152 ∧ InputKept s t ∧ HostSideKept s t

/-- The Mode1 decode under either admissible MODE1_SIZE (log entry 1), for a configuration whose
PAL_HI_POLICY is mask (a premise; log entry 2): the same pixels, the CLUT in the last 16 bytes of the
layout, and, where the size is 7120, no effect of the bytes 6912 to 7103 (R124, R58). That the host's
side, `pending` and `replies`, is unchanged is the model's choice (DESIGN CHOICE, log entry 5): R124
does not say it. -/
def Obligations.Mode1DecodeAtEitherSize : Prop :=
  ∀ (c : Config) (s : State), c.wf = true → c.palHiPolicy = .mask →
    s.len = (match c.mode1Size with | .byFormula => 6928 | .asPrinted => 7120) →
    ∃ t, decodeM1 c s = .next t ∧
      DoneAs t .mode1 256#10 192#8 16#8 ∧
      t.idx.length = 49152 ∧
      (∀ x y, x < 256 → y < 192 → t.idx[y * 256 + x]? = some (BitVec.ofNat 7
        (attrColour (bufRead s (m1Attr x y)) (bufRead s (m1Data x y)) x))) ∧
      t.clut.length = 16 ∧
      (∀ j, j < 16 → t.clut[j]? = some ((bufRead s (s.len - 16 + j)).setWidth 7)) ∧
      RasterComposed t 49152 ∧ InputKept s t ∧ HostSideKept s t ∧
      ∀ s' t', s'.len = s.len →
        (∀ a, a < s.len → (a < 6912 ∨ s.len - 16 ≤ a) → bufRead s' a = bufRead s a) →
        decodeM1 c s' = .next t' → SameOutcome t t'

/-- DEC.M2 (R137): the data byte at 32·y + x div 8, its own attribute byte 6144 further on, the CLUT
at 12288; BUF, LEN and the host's side unchanged. The low 7 bits of a CLUT byte above 127 are PAL_HI_POLICY = mask, a DESIGN
CHOICE (the spec's D4, log entry 2). -/
def Obligations.DecM2Result : Prop :=
  ∀ s : State, s.len = 12304 → ∃ t, exec .decM2 s = .next t ∧
    DoneAs t .mode2 256#10 192#8 16#8 ∧
    t.idx.length = 49152 ∧
    (∀ x y, x < 256 → y < 192 → t.idx[y * 256 + x]? = some (BitVec.ofNat 7 (attrColour
      (bufRead s (0x1800 + 32 * y + x / 8)) (bufRead s (32 * y + x / 8)) x))) ∧
    t.clut.length = 16 ∧
    (∀ j, j < 16 → t.clut[j]? = some ((bufRead s (12288 + j)).setWidth 7)) ∧
    RasterComposed t 49152 ∧ InputKept s t ∧ HostSideKept s t

/-- DEC.L2 (R147): four pixels a byte, most significant field leftmost, 128 bytes a row; the CLUT at
24576, 4 entries; BUF, LEN and the host's side unchanged. The low 7 bits of a CLUT byte above 127 are PAL_HI_POLICY = mask, a DESIGN
CHOICE (the spec's D4, log entry 2). -/
def Obligations.DecL2Result : Prop :=
  ∀ s : State, s.len = 24580 → ∃ t, exec .decL2 s = .next t ∧
    DoneAs t .linear2bpp 512#10 192#8 4#8 ∧
    t.idx.length = 98304 ∧
    (∀ a j, a < 24576 → j < 4 →
      t.idx[4 * a + j]? = some (((bufRead s a).extractLsb' (6 - 2 * j) 2).setWidth 7)) ∧
    t.clut.length = 4 ∧
    (∀ j, j < 4 → t.clut[j]? = some ((bufRead s (24576 + j)).setWidth 7)) ∧
    RasterComposed t 98304 ∧ InputKept s t ∧ HostSideKept s t

/-- DEC.L4 (R148): two pixels a byte, most significant field left, 128 bytes a row; the CLUT at
24576, 16 entries; BUF, LEN and the host's side unchanged. The low 7 bits of a CLUT byte above 127 are PAL_HI_POLICY = mask, a DESIGN
CHOICE (the spec's D4, log entry 2). -/
def Obligations.DecL4Result : Prop :=
  ∀ s : State, s.len = 24592 → ∃ t, exec .decL4 s = .next t ∧
    DoneAs t .linear4bpp 256#10 192#8 16#8 ∧
    t.idx.length = 49152 ∧
    (∀ a j, a < 24576 → j < 2 →
      t.idx[2 * a + j]? = some (((bufRead s a).extractLsb' (4 - 4 * j) 4).setWidth 7)) ∧
    t.clut.length = 16 ∧
    (∀ j, j < 16 → t.clut[j]? = some ((bufRead s (24576 + j)).setWidth 7)) ∧
    RasterComposed t 49152 ∧ InputKept s t ∧ HostSideKept s t

/-- The linear decoders write the concatenation of the bytes' UNPACK lists (R146). -/
def Obligations.LinearPixelsAreConcatenation : Prop :=
  ∀ s t : State,
    (exec .decL2 s = .next t → t.idx = (List.range 24576).flatMap
      (fun a => (unpack (bufRead s a) 2).map (BitVec.ofNat 7))) ∧
    (exec .decL4 s = .next t → t.idx = (List.range 24576).flatMap
      (fun a => (unpack (bufRead s a) 4).map (BitVec.ofNat 7)))

/-- The packing law (R149): the pixels hold every bit of the pixel region, so each byte of it is
recovered from its pixels. -/
def Obligations.PixelRegionRecovered : Prop :=
  ∀ s t : State,
    (exec .decL2 s = .next t → ∀ a, a < 24576 → ∃ p q r u,
      t.idx[4 * a]? = some p ∧ t.idx[4 * a + 1]? = some q ∧ t.idx[4 * a + 2]? = some r ∧
      t.idx[4 * a + 3]? = some u ∧
      (bufRead s a).toNat = p.toNat <<< 6 + q.toNat <<< 4 + r.toNat <<< 2 + u.toNat) ∧
    (exec .decL4 s = .next t → ∀ a, a < 24576 → ∃ p q,
      t.idx[2 * a]? = some p ∧ t.idx[2 * a + 1]? = some q ∧
      (bufRead s a).toNat = p.toNat <<< 4 + q.toNat)

/-- Every operation that completes leaves BUF, LEN and the host's side as they were, ends in DONE
with the geometry of its format and no ERRSIZE, and writes IDX entries below CLUTLEN. -/
def Obligations.DecodeFrame : Prop :=
  ∀ (i : Instr) (s t : State), exec i s = .next t →
    InputKept s t ∧ HostSideKept s t ∧
    DoneAs t (operationFormat i) (BitVec.ofNat 10 (formatWidth config (operationFormat i)))
      (BitVec.ofNat 8 (formatHeight config (operationFormat i)))
      (BitVec.ofNat 8 (formatClutLen (operationFormat i))) ∧
    t.idx.length = formatPixels config (operationFormat i) ∧
    (∀ v ∈ t.idx, v.toNat < formatClutLen (operationFormat i)) ∧
    RasterComposed t (formatPixels config (operationFormat i))

/-- THE MODEL'S CHOICE (log entry 7): an operation performed directly on a buffer that does not
reach to the end of its layout faults, and completes on every other. No step meets the fault
(StepNeverFaults). -/
def Obligations.DecodeFaultsOnlyOnShortBuffer : Prop :=
  ∀ (i : Instr) (s : State),
    (s.len < formatSize config (operationFormat i) → exec i s = .fault (.bufTooShort s.len)) ∧
    (formatSize config (operationFormat i) ≤ s.len → ∃ t, exec i s = .next t ∧ t.status = .done)

/-- Where every byte used as a PaletteIndex is below 128, PAL_HI_POLICY makes no difference to a
decode of any format, in any admissible configuration (93 U1; log entry 2). -/
def Obligations.PoliciesAgreeOnLowBytes : Prop :=
  ∀ (c : Config) (f : Format) (px : List LogicalColour) (s : State), c.wf = true →
    (∀ a, a < formatSize c f → (∀ off, clutOffset c f = some off → off ≤ a) →
      (bufRead s a).toNat < 128) →
    runDecode { c with palHiPolicy := .fault } f px s =
      runDecode { c with palHiPolicy := .mask } f px s

/-- THE MODEL'S CHOICE of which byte is the first (log entry 2): under PAL_HI_POLICY = fault a
decode whose layout is in the buffer faults exactly when a palette byte is above 127, at the lowest
such offset. -/
def Obligations.FaultPolicyStopsAtLowestHighByte : Prop :=
  ∀ (c : Config) (f : Format) (px : List LogicalColour) (s : State) (a : Nat),
    c.wf = true → c.palHiPolicy = .fault → formatSize c f ≤ s.len →
    (runDecode c f px s = .fault (.paletteByteHigh a) ↔
      a < formatSize c f ∧ (∀ off, clutOffset c f = some off → off ≤ a) ∧
      128 ≤ (bufRead s a).toNat ∧
      ∀ b, b < a → (∀ off, clutOffset c f = some off → off ≤ b) → (bufRead s b).toNat < 128)

/-! ### START, the exception, the other commands -/

/-- A step runs the decoded operation: with START the oldest command and LEN a recognised size, the
step is exec of the selected operation at the state without that command and without the old
result (R204, R113). -/
def Obligations.StepRunsSelectedOperation : Prop :=
  ∀ (s : State) (rest : List HostCommand) (i : Instr), s.pending = .start :: rest →
    decodeSelector config s.len = .ok i →
    step s = exec i (s.withPending rest).discardResult

/-- Taking UnsupportedFormat (R183): on a START with any other LEN, ERRSIZE takes LEN, STATUS is
ERROR, no result holds a value, BUF and LEN are unchanged. Of the two admissible sizes of Mode1 the
lengths here count 6928 as supported and 7120 as not: MODE1_SIZE = 6928, a DESIGN CHOICE (log
entry 1). -/
def Obligations.UnsupportedFormatEntry : Prop :=
  ∀ (s : State) (rest : List HostCommand), s.pending = .start :: rest →
    s.len ≠ 98304 → s.len ≠ 6928 → s.len ≠ 12304 → s.len ≠ 24580 → s.len ≠ 24592 →
    ∃ t, step s = .next t ∧ t.status = .error ∧ t.errSize = some s.len ∧ NoResult t ∧
      InputKept s t ∧ t.pending = rest ∧ t.replies = s.replies

/-- STATUS becomes ERROR on a START whose LEN is unsupported and on nothing else (R181), in both
directions: a step that brings ERROR performed such a START, and every such START brings ERROR, each
with ERRSIZE the LEN it found. -/
def Obligations.ErrorRaisedOnlyByStart : Prop :=
  ∀ s t : State, step s = .next t →
    (s.status ≠ .error → t.status = .error →
      (∃ rest, s.pending = .start :: rest) ∧ (∀ i, decodeSelector config s.len ≠ .ok i) ∧
      t.errSize = some s.len) ∧
    (∀ rest, s.pending = .start :: rest → (∀ i, decodeSelector config s.len ≠ .ok i) →
      t.status = .error ∧ t.errSize = some s.len)

/-- STATUS = ERROR and ERRSIZE persist until the next RESET, LOAD or START (R184). -/
def Obligations.ErrorPersists : Prop :=
  ∀ s t : State, step s = .next t → s.status = .error →
    (∃ rest, s.pending = .reset :: rest ∨ s.pending = .start :: rest ∨
      ∃ b, s.pending = .load b :: rest) ∨
    (t.status = .error ∧ t.errSize = s.errSize)

/-- A START after a failed START with the same LEN raises the same error again, with the same
ERRSIZE (R186). -/
def Obligations.RepeatedStartSameError : Prop :=
  ∀ (s : State) (rest : List HostCommand), Inv s → s.status = .error →
    s.pending = .start :: rest →
    ∃ t, step s = .next t ∧ t.status = .error ∧ t.errSize = s.errSize ∧ t = s.withPending rest

/-- The state RESET leaves, whatever the state before (R200). That BUF lists nothing is the model's
choice (log entry 4) and is not stated here: with LEN = 0 no offset of it is in range. That RESET
leaves the commands still pending and the answers given is the model's choice (DESIGN CHOICE, log
entry 5): R200 does not say it. -/
def Obligations.ResetFromAnyState : Prop :=
  ∀ (s : State) (rest : List HostCommand), s.pending = .reset :: rest →
    ∃ t, step s = .next t ∧ t.len = 0 ∧ t.status = .idle ∧ NoResult t ∧ t.errSize = none ∧
      (∀ a, ¬ a < t.len) ∧
      (∀ i, hostRead config (.pal i) t = hostRead config (.pal i) s) ∧
      t.pending = rest ∧ t.replies = s.replies

/-- The state after reset (R200): LEN = 0, IDLE, nothing else holds a value. -/
def Obligations.ResetStateValues : Prop :=
  State.reset.len = 0 ∧ State.reset.status = .idle ∧ NoResult State.reset ∧
    State.reset.errSize = none

/-- LOAD(b) (R203): LEN, the first BUF_CAP bytes, STATUS = IDLE, no result and no ERRSIZE. That the
bytes of BUF outside those stored are unchanged is the model's reading (DEDUCED, log entry 4): R203
does not say it. -/
def Obligations.LoadEffect : Prop :=
  ∀ (s : State) (b : List Byte) (rest : List HostCommand), s.buf.wf = true →
    s.pending = .load b :: rest →
    ∃ t, step s = .next t ∧ t.len = b.length ∧
      (∀ a v, a < 98304 → b[a]? = some v → bufRead t a = v) ∧
      (∀ a, min b.length 98304 ≤ a → bufRead t a = bufRead s a) ∧
      t.status = .idle ∧ NoResult t ∧ t.errSize = none ∧ t.pending = rest ∧ t.replies = s.replies

/-- A START with no LOAD since reset is permitted and fails with ERRSIZE = 0 (R202). -/
def Obligations.StartWithoutLoadFails : Prop :=
  ∀ rest, ∃ t, step (State.reset.withPending (.start :: rest)) = .next t ∧ t.status = .error ∧
    t.errSize = some 0

/-- A read changes nothing of the block (R54): the host has one command less and one answer more. -/
def Obligations.ReadsChangeNothing : Prop :=
  ∀ (s t : State) (r : HostRead) (rest : List HostCommand), s.pending = .read r :: rest →
    step s = .next t →
    ∃ v, hostRead config r s = some v ∧
      t = { s with pending := rest, replies := s.replies ++ [v] }

/-- A read is answered exactly where it has a defined value (R206), and refused elsewhere; a CLUT
read of RawIndexed returns its index. The answer's place, `replies`, is the model's (DESIGN CHOICE,
log entry 5), and so is its reading that a pair (x, y) outside the grid and a PAL index past 127 have
no defined value and are refused (DEDUCED, log entry 6). -/
def Obligations.ReadAnsweredIffAllowed : Prop :=
  ∀ (s : State) (r : HostRead) (rest : List HostCommand), Inv s → s.pending = .read r :: rest →
    (ReadAllowed r s → ∃ t v, hostRead config r s = some v ∧ step s = .next t ∧
      t.replies = s.replies ++ [v]) ∧
    (¬ ReadAllowed r s → step s = .refused (.readHasNoValue r)) ∧
    (∀ j, s.fmt = some .rawIndexed → r = .clut j → j < 128 →
      hostRead config r s = some (.clutEntry (BitVec.ofNat 7 j)))

/-- What the registers read as in DONE (R26, R27, R29): by the format that LEN selects; in every
other status they have no defined value. -/
def Obligations.RegistersValidInDone : Prop :=
  (∀ s : State, s.status ≠ .done → hostRead config .fmt s = none ∧ hostRead config .width s = none ∧
    hostRead config .height s = none ∧ hostRead config .clutLen s = none) ∧
  ∀ s : State, Inv s → s.status = .done → ∃ f, classify config s.len = .ok f ∧
    hostRead config .status s = some (.status 1#2) ∧
    hostRead config .fmt s = some (.fmt (match f with
      | .rawIndexed => 0#3 | .mode1 => 1#3 | .mode2 => 2#3 | .linear2bpp => 3#3
      | .linear4bpp => 4#3)) ∧
    hostRead config .width s = some (.width (match f with
      | .rawIndexed => 512#10 | .mode1 => 256#10 | .mode2 => 256#10 | .linear2bpp => 512#10
      | .linear4bpp => 256#10)) ∧
    hostRead config .height s = some (.height 192#8) ∧
    hostRead config .clutLen s = some (.clutLen (match f with
      | .rawIndexed => 128#8 | .mode1 => 16#8 | .mode2 => 16#8 | .linear2bpp => 4#8
      | .linear4bpp => 16#8))

/-- What a host read delivers is what the state holds (R206, R24, R25, R28, R33, R101): PAL[i], for
every i to 127 and in every state, is the palette's colour as the 24-bit port packs it (that packing is
a DESIGN CHOICE, the spec's D6, log entry 12); LEN and the code of STATUS always, the rejected LEN as ERRSIZE in ERROR, and in DONE the entries of IDX and RGB, and the
stored entry j of CLUT, which is the low 7 bits of the CLUT byte j of the buffer: PAL_HI_POLICY =
mask, a DESIGN CHOICE (the spec's D4, log entry 2). -/
def Obligations.HostReadsDeliverState : Prop :=
  (∀ (s : State) (i : Nat), i < 128 →
    hostRead config (.pal i) s = some (.colour (rgbPort (palRgb config (BitVec.ofNat 7 i))))) ∧
  ∀ s : State, Inv s →
    hostRead config .len s = some (.length s.len) ∧
    (s.status = .idle → hostRead config .status s = some (.status 0#2)) ∧
    (s.status = .done → hostRead config .status s = some (.status 1#2)) ∧
    (s.status = .error → hostRead config .status s = some (.status 2#2) ∧
      hostRead config .errSize s = some (.length s.len)) ∧
    (∀ f, s.status = .done → s.fmt = some f →
      (∀ k, k < formatPixels config f → ∃ v t, s.idx[k]? = some v ∧ s.rgb[k]? = some t ∧
        hostRead config (.idx k) s = some (.idxEntry v) ∧
        hostRead config (.rgb k) s = some (.colour (rgbPort t))) ∧
      (∀ off j, clutOffset config f = some off → j < formatClutLen f →
        s.clut[j]? = some ((bufRead s (off + j)).setWidth 7) ∧
        hostRead config (.clut j) s = some (.clutEntry ((bufRead s (off + j)).setWidth 7))))

/-- Reading by the pair (x, y) is reading at k = y·WIDTH + x (R13). That order for the linear and raw
formats is the spec's decision D5 (log entry 9). -/
def Obligations.PairReadsAreRowMajor : Prop :=
  ∀ (s : State) (w : BitVec 10) (x y : Nat), Inv s → s.width = some w → x < w.toNat → y < 192 →
    hostRead config (.idxAt x y) s = hostRead config (.idx (y * w.toNat + x)) s ∧
    hostRead config (.rgbAt x y) s = hostRead config (.rgb (y * w.toNat + x)) s ∧
    ∃ v, hostRead config (.idxAt x y) s = some (.idxEntry v)

/-- In DONE, IDX has WIDTH·HEIGHT entries below CLUTLEN, and every element of the raster the host can
read is the palette's colour for the CLUT entry of its logical colour (R32, R33). -/
def Obligations.ResultReadsCompose : Prop :=
  ∀ (s : State) (k : Nat) (f : Format), Inv s → s.fmt = some f → k < formatPixels config f →
    ∃ v p, hostRead config (.idx k) s = some (.idxEntry v) ∧ v.toNat < formatClutLen f ∧
      hostRead config (.clut v.toNat) s = some (.clutEntry p) ∧
      hostRead config (.rgb k) s = some (.colour (rgbPort (palRgb config p))) ∧
      hostRead config (.pal p.toNat) s = some (.colour (rgbPort (palRgb config p)))

/-- With no command pending the block holds its state (R192; log entry 5). -/
def Obligations.IdleStepHolds : Prop :=
  ∀ s : State, s.pending = [] → step s = .next s

/-- No operation writes BUF other than LOAD (R50): a step with neither LOAD nor RESET performed
leaves BUF and LEN as they were. That RESET empties BUF is the model's choice (log entry 4). -/
def Obligations.BufferWrittenOnlyByLoad : Prop :=
  ∀ s t : State, step s = .next t → (∀ b rest, s.pending ≠ .load b :: rest) →
    (∀ rest, s.pending ≠ .reset :: rest) → InputKept s t

/-- No step faults: once a length is classified, nothing of the decode can fail (R55, R112, R181). -/
def Obligations.StepNeverFaults : Prop :=
  ∀ (s : State) (r : Fault), step s ≠ .fault r

/-- Every RESET, LOAD and START completes, whatever the state (R204, R207). -/
def Obligations.CommandsComplete : Prop :=
  ∀ (s : State) (cmd : HostCommand) (rest : List HostCommand), s.pending = cmd :: rest →
    (∀ r, cmd ≠ .read r) → ∃ t, step s = .next t ∧ t.pending = rest

/-- The level outputs and the codes of STATUS (R187, R25). -/
def Obligations.LevelOutputsFollowStatus : Prop :=
  ∀ s : State, (s.doneOutput = true ↔ statusCode s.status = 1#2) ∧
    (s.errorOutput = true ↔ statusCode s.status = 2#2) ∧
    (s.status = .idle ↔ statusCode s.status = 0#2) ∧ statusCode s.status ≠ 3#2

/-! ### Headline results -/

/-- The invariant holds after reset. That BUF lists nothing then is the model's choice (log entry 4). -/
def Obligations.InvariantAtReset : Prop := Inv State.reset

/-- Every step keeps the invariant: the buffer memory stays canonical and inside BUF_CAP, a result is
held only in DONE and is then the decode of the buffer held, ERRSIZE is held only in ERROR and is
then the rejected LEN (R24, R36). The canonical form of the byte list is the model's (log entry 4). -/
def Obligations.StepKeepsInvariant : Prop :=
  ∀ s t : State, Inv s → step s = .next t → Inv t

/-- Every run ends (R207): from any state of the invariant the pending commands are all performed
without a fault and leave the block in the invariant, or the run stops at a read that has no
defined value. -/
def Obligations.EveryRunEnds : Prop :=
  ∀ s : State, Inv s →
    (∃ t, RunEnds s t ∧ Inv t) ∨
    (∃ r, .read r ∈ s.pending ∧
      Sys2Proof.core.run s.pending.length s = .refused (.readHasNoValue r))

/-- The outcome of a START is determined by the bytes below LEN (R170): two states that agree on LEN
and on those bytes, whatever else they hold, have the same outcome. -/
def Obligations.OutcomeDependsOnBufferOnly : Prop :=
  ∀ (s u : State) (restS restU : List HostCommand), s.pending = .start :: restS →
    u.pending = .start :: restU → s.len = u.len →
    (∀ a, a < s.len → bufRead s a = bufRead u a) →
    ∃ t v, step s = .next t ∧ step u = .next v ∧ SameOutcome t v

/-- LOAD then START is the source's call "one input buffer in, one output raster out" (R64, R165):
from any canonical state, the two commands end in DONE exactly on the five sizes and in ERROR with
ERRSIZE the length on every other. For each format IDX and CLUT are given from the bytes loaded, and
the raster is the palette's colour of the CLUT entry of each pixel. MODE1_SIZE = 6928 (log entry 1)
and the low 7 bits of a palette byte (PAL_HI_POLICY = mask, log entry 2) are DESIGN CHOICES. -/
def Obligations.LoadThenStartDecodesTheFile : Prop :=
  ∀ (s : State) (b : List Byte) (rest : List HostCommand), s.buf.wf = true →
    s.pending = .load b :: .start :: rest →
    ∃ t, Sys2Proof.core.run 2 s = .next t ∧ t.pending = rest ∧ t.len = b.length ∧
      (t.status = .done ↔ ∃ f, b.length = formatSize config f) ∧
      (t.status ≠ .done → t.status = .error ∧ t.errSize = some b.length ∧ NoResult t) ∧
      (∀ f, b.length = formatSize config f → t.fmt = some f ∧
        RasterComposed t (formatPixels config f)) ∧
      (b.length = 98304 → t.idx = b.map (fun v => v.setWidth 7) ∧
        t.rgb = b.map (fun v => palRgb config (v.setWidth 7))) ∧
      (b.length = 6928 → t.idx.length = 49152 ∧
        (∀ x y, x < 256 → y < 192 → ∃ a d, b[0x1800 + 32 * (y / 8) + x / 8]? = some a ∧
          b[2048 * (y / 64) + 256 * (y % 8) + 32 * (y / 8 % 8) + x / 8]? = some d ∧
          t.idx[y * 256 + x]? = some (BitVec.ofNat 7 (attrColour a d x))) ∧
        t.clut = (b.drop 6912).map (fun v => v.setWidth 7)) ∧
      (b.length = 12304 → t.idx.length = 49152 ∧
        (∀ x y, x < 256 → y < 192 → ∃ a d, b[0x1800 + 32 * y + x / 8]? = some a ∧
          b[32 * y + x / 8]? = some d ∧
          t.idx[y * 256 + x]? = some (BitVec.ofNat 7 (attrColour a d x))) ∧
        t.clut = (b.drop 12288).map (fun v => v.setWidth 7)) ∧
      (b.length = 24580 →
        t.idx = (b.take 24576).flatMap (fun v => (unpack v 2).map (BitVec.ofNat 7)) ∧
        t.clut = (b.drop 24576).map (fun v => v.setWidth 7)) ∧
      (b.length = 24592 →
        t.idx = (b.take 24576).flatMap (fun v => (unpack v 4).map (BitVec.ofNat 7)) ∧
        t.clut = (b.drop 24576).map (fun v => v.setWidth 7))
end

