-- ==== Sys2Proof/Laws/State.lean ====
section
/-! SUPPORT. One lemma per field per update of the state. -/

namespace Sys2Proof.Laws

open Sys2Proof.Machine

/-! ### State.discardResult -/

@[simp] theorem discardResult_buf (s : State) :
    (s.discardResult).buf = s.buf := rfl

@[simp] theorem discardResult_len (s : State) :
    (s.discardResult).len = s.len := rfl

@[simp] theorem discardResult_status (s : State) :
    (s.discardResult).status = .idle := rfl

@[simp] theorem discardResult_fmt (s : State) :
    (s.discardResult).fmt = none := rfl

@[simp] theorem discardResult_width (s : State) :
    (s.discardResult).width = none := rfl

@[simp] theorem discardResult_height (s : State) :
    (s.discardResult).height = none := rfl

@[simp] theorem discardResult_clutLen (s : State) :
    (s.discardResult).clutLen = none := rfl

@[simp] theorem discardResult_errSize (s : State) :
    (s.discardResult).errSize = none := rfl

@[simp] theorem discardResult_clut (s : State) :
    (s.discardResult).clut = [] := rfl

@[simp] theorem discardResult_idx (s : State) :
    (s.discardResult).idx = [] := rfl

@[simp] theorem discardResult_rgb (s : State) :
    (s.discardResult).rgb = [] := rfl

@[simp] theorem discardResult_pending (s : State) :
    (s.discardResult).pending = s.pending := rfl

@[simp] theorem discardResult_replies (s : State) :
    (s.discardResult).replies = s.replies := rfl

/-! ### State.withBuffer -/

@[simp] theorem withBuffer_buf (s : State) (m : Memory) (n : Nat) :
    (s.withBuffer m n).buf = m := rfl

@[simp] theorem withBuffer_len (s : State) (m : Memory) (n : Nat) :
    (s.withBuffer m n).len = n := rfl

@[simp] theorem withBuffer_status (s : State) (m : Memory) (n : Nat) :
    (s.withBuffer m n).status = s.status := rfl

@[simp] theorem withBuffer_fmt (s : State) (m : Memory) (n : Nat) :
    (s.withBuffer m n).fmt = s.fmt := rfl

@[simp] theorem withBuffer_width (s : State) (m : Memory) (n : Nat) :
    (s.withBuffer m n).width = s.width := rfl

@[simp] theorem withBuffer_height (s : State) (m : Memory) (n : Nat) :
    (s.withBuffer m n).height = s.height := rfl

@[simp] theorem withBuffer_clutLen (s : State) (m : Memory) (n : Nat) :
    (s.withBuffer m n).clutLen = s.clutLen := rfl

@[simp] theorem withBuffer_errSize (s : State) (m : Memory) (n : Nat) :
    (s.withBuffer m n).errSize = s.errSize := rfl

@[simp] theorem withBuffer_clut (s : State) (m : Memory) (n : Nat) :
    (s.withBuffer m n).clut = s.clut := rfl

@[simp] theorem withBuffer_idx (s : State) (m : Memory) (n : Nat) :
    (s.withBuffer m n).idx = s.idx := rfl

@[simp] theorem withBuffer_rgb (s : State) (m : Memory) (n : Nat) :
    (s.withBuffer m n).rgb = s.rgb := rfl

@[simp] theorem withBuffer_pending (s : State) (m : Memory) (n : Nat) :
    (s.withBuffer m n).pending = s.pending := rfl

@[simp] theorem withBuffer_replies (s : State) (m : Memory) (n : Nat) :
    (s.withBuffer m n).replies = s.replies := rfl

/-! ### State.withResult -/

@[simp] theorem withResult_buf (s : State) (c : Config) (f : Format) (cl : List PaletteIndex)
    (ix : List LogicalColour) (ra : List Rgb) :
    (s.withResult c f cl ix ra).buf = s.buf := rfl

@[simp] theorem withResult_len (s : State) (c : Config) (f : Format) (cl : List PaletteIndex)
    (ix : List LogicalColour) (ra : List Rgb) :
    (s.withResult c f cl ix ra).len = s.len := rfl

@[simp] theorem withResult_status (s : State) (c : Config) (f : Format) (cl : List PaletteIndex)
    (ix : List LogicalColour) (ra : List Rgb) :
    (s.withResult c f cl ix ra).status = .done := rfl

@[simp] theorem withResult_fmt (s : State) (c : Config) (f : Format) (cl : List PaletteIndex)
    (ix : List LogicalColour) (ra : List Rgb) :
    (s.withResult c f cl ix ra).fmt = some f := rfl

@[simp] theorem withResult_width (s : State) (c : Config) (f : Format) (cl : List PaletteIndex)
    (ix : List LogicalColour) (ra : List Rgb) :
    (s.withResult c f cl ix ra).width = some (BitVec.ofNat 10 (formatWidth c f)) := rfl

@[simp] theorem withResult_height (s : State) (c : Config) (f : Format) (cl : List PaletteIndex)
    (ix : List LogicalColour) (ra : List Rgb) :
    (s.withResult c f cl ix ra).height = some (BitVec.ofNat 8 (formatHeight c f)) := rfl

@[simp] theorem withResult_clutLen (s : State) (c : Config) (f : Format) (cl : List PaletteIndex)
    (ix : List LogicalColour) (ra : List Rgb) :
    (s.withResult c f cl ix ra).clutLen = some (BitVec.ofNat 8 (formatClutLen f)) := rfl

@[simp] theorem withResult_errSize (s : State) (c : Config) (f : Format) (cl : List PaletteIndex)
    (ix : List LogicalColour) (ra : List Rgb) :
    (s.withResult c f cl ix ra).errSize = none := rfl

@[simp] theorem withResult_clut (s : State) (c : Config) (f : Format) (cl : List PaletteIndex)
    (ix : List LogicalColour) (ra : List Rgb) :
    (s.withResult c f cl ix ra).clut = cl := rfl

@[simp] theorem withResult_idx (s : State) (c : Config) (f : Format) (cl : List PaletteIndex)
    (ix : List LogicalColour) (ra : List Rgb) :
    (s.withResult c f cl ix ra).idx = ix := rfl

@[simp] theorem withResult_rgb (s : State) (c : Config) (f : Format) (cl : List PaletteIndex)
    (ix : List LogicalColour) (ra : List Rgb) :
    (s.withResult c f cl ix ra).rgb = ra := rfl

@[simp] theorem withResult_pending (s : State) (c : Config) (f : Format) (cl : List PaletteIndex)
    (ix : List LogicalColour) (ra : List Rgb) :
    (s.withResult c f cl ix ra).pending = s.pending := rfl

@[simp] theorem withResult_replies (s : State) (c : Config) (f : Format) (cl : List PaletteIndex)
    (ix : List LogicalColour) (ra : List Rgb) :
    (s.withResult c f cl ix ra).replies = s.replies := rfl

/-! ### State.withPending -/

@[simp] theorem withPending_buf (s : State) (cs : List HostCommand) :
    (s.withPending cs).buf = s.buf := rfl

@[simp] theorem withPending_len (s : State) (cs : List HostCommand) :
    (s.withPending cs).len = s.len := rfl

@[simp] theorem withPending_status (s : State) (cs : List HostCommand) :
    (s.withPending cs).status = s.status := rfl

@[simp] theorem withPending_fmt (s : State) (cs : List HostCommand) :
    (s.withPending cs).fmt = s.fmt := rfl

@[simp] theorem withPending_width (s : State) (cs : List HostCommand) :
    (s.withPending cs).width = s.width := rfl

@[simp] theorem withPending_height (s : State) (cs : List HostCommand) :
    (s.withPending cs).height = s.height := rfl

@[simp] theorem withPending_clutLen (s : State) (cs : List HostCommand) :
    (s.withPending cs).clutLen = s.clutLen := rfl

@[simp] theorem withPending_errSize (s : State) (cs : List HostCommand) :
    (s.withPending cs).errSize = s.errSize := rfl

@[simp] theorem withPending_clut (s : State) (cs : List HostCommand) :
    (s.withPending cs).clut = s.clut := rfl

@[simp] theorem withPending_idx (s : State) (cs : List HostCommand) :
    (s.withPending cs).idx = s.idx := rfl

@[simp] theorem withPending_rgb (s : State) (cs : List HostCommand) :
    (s.withPending cs).rgb = s.rgb := rfl

@[simp] theorem withPending_pending (s : State) (cs : List HostCommand) :
    (s.withPending cs).pending = cs := rfl

@[simp] theorem withPending_replies (s : State) (cs : List HostCommand) :
    (s.withPending cs).replies = s.replies := rfl

/-! ### State.withReply -/

@[simp] theorem withReply_buf (s : State) (v : ReadValue) :
    (s.withReply v).buf = s.buf := rfl

@[simp] theorem withReply_len (s : State) (v : ReadValue) :
    (s.withReply v).len = s.len := rfl

@[simp] theorem withReply_status (s : State) (v : ReadValue) :
    (s.withReply v).status = s.status := rfl

@[simp] theorem withReply_fmt (s : State) (v : ReadValue) :
    (s.withReply v).fmt = s.fmt := rfl

@[simp] theorem withReply_width (s : State) (v : ReadValue) :
    (s.withReply v).width = s.width := rfl

@[simp] theorem withReply_height (s : State) (v : ReadValue) :
    (s.withReply v).height = s.height := rfl

@[simp] theorem withReply_clutLen (s : State) (v : ReadValue) :
    (s.withReply v).clutLen = s.clutLen := rfl

@[simp] theorem withReply_errSize (s : State) (v : ReadValue) :
    (s.withReply v).errSize = s.errSize := rfl

@[simp] theorem withReply_clut (s : State) (v : ReadValue) :
    (s.withReply v).clut = s.clut := rfl

@[simp] theorem withReply_idx (s : State) (v : ReadValue) :
    (s.withReply v).idx = s.idx := rfl

@[simp] theorem withReply_rgb (s : State) (v : ReadValue) :
    (s.withReply v).rgb = s.rgb := rfl

@[simp] theorem withReply_pending (s : State) (v : ReadValue) :
    (s.withReply v).pending = s.pending := rfl

@[simp] theorem withReply_replies (s : State) (v : ReadValue) :
    (s.withReply v).replies = s.replies ++ [v] := rfl

/-! ### takeUnsupportedFormat -/

@[simp] theorem takeUnsupportedFormat_buf (n : Nat) (s : State) :
    (takeUnsupportedFormat n s).buf = s.buf := rfl

@[simp] theorem takeUnsupportedFormat_len (n : Nat) (s : State) :
    (takeUnsupportedFormat n s).len = s.len := rfl

@[simp] theorem takeUnsupportedFormat_status (n : Nat) (s : State) :
    (takeUnsupportedFormat n s).status = .error := rfl

@[simp] theorem takeUnsupportedFormat_fmt (n : Nat) (s : State) :
    (takeUnsupportedFormat n s).fmt = none := rfl

@[simp] theorem takeUnsupportedFormat_width (n : Nat) (s : State) :
    (takeUnsupportedFormat n s).width = none := rfl

@[simp] theorem takeUnsupportedFormat_height (n : Nat) (s : State) :
    (takeUnsupportedFormat n s).height = none := rfl

@[simp] theorem takeUnsupportedFormat_clutLen (n : Nat) (s : State) :
    (takeUnsupportedFormat n s).clutLen = none := rfl

@[simp] theorem takeUnsupportedFormat_errSize (n : Nat) (s : State) :
    (takeUnsupportedFormat n s).errSize = some n := rfl

@[simp] theorem takeUnsupportedFormat_clut (n : Nat) (s : State) :
    (takeUnsupportedFormat n s).clut = [] := rfl

@[simp] theorem takeUnsupportedFormat_idx (n : Nat) (s : State) :
    (takeUnsupportedFormat n s).idx = [] := rfl

@[simp] theorem takeUnsupportedFormat_rgb (n : Nat) (s : State) :
    (takeUnsupportedFormat n s).rgb = [] := rfl

@[simp] theorem takeUnsupportedFormat_pending (n : Nat) (s : State) :
    (takeUnsupportedFormat n s).pending = s.pending := rfl

@[simp] theorem takeUnsupportedFormat_replies (n : Nat) (s : State) :
    (takeUnsupportedFormat n s).replies = s.replies := rfl

/-! ### hostReset -/

@[simp] theorem hostReset_buf (s : State) :
    (hostReset s).buf = [] := rfl

@[simp] theorem hostReset_len (s : State) :
    (hostReset s).len = 0 := rfl

@[simp] theorem hostReset_status (s : State) :
    (hostReset s).status = .idle := rfl

@[simp] theorem hostReset_fmt (s : State) :
    (hostReset s).fmt = none := rfl

@[simp] theorem hostReset_width (s : State) :
    (hostReset s).width = none := rfl

@[simp] theorem hostReset_height (s : State) :
    (hostReset s).height = none := rfl

@[simp] theorem hostReset_clutLen (s : State) :
    (hostReset s).clutLen = none := rfl

@[simp] theorem hostReset_errSize (s : State) :
    (hostReset s).errSize = none := rfl

@[simp] theorem hostReset_clut (s : State) :
    (hostReset s).clut = [] := rfl

@[simp] theorem hostReset_idx (s : State) :
    (hostReset s).idx = [] := rfl

@[simp] theorem hostReset_rgb (s : State) :
    (hostReset s).rgb = [] := rfl

@[simp] theorem hostReset_pending (s : State) :
    (hostReset s).pending = s.pending := rfl

@[simp] theorem hostReset_replies (s : State) :
    (hostReset s).replies = s.replies := rfl

/-! ### hostLoad -/

@[simp] theorem hostLoad_buf (c : Config) (b : List Byte) (s : State) :
    (hostLoad c b s).buf = s.buf.writeBytes 0 (b.take c.bufCap) := rfl

@[simp] theorem hostLoad_len (c : Config) (b : List Byte) (s : State) :
    (hostLoad c b s).len = b.length := rfl

@[simp] theorem hostLoad_status (c : Config) (b : List Byte) (s : State) :
    (hostLoad c b s).status = .idle := rfl

@[simp] theorem hostLoad_fmt (c : Config) (b : List Byte) (s : State) :
    (hostLoad c b s).fmt = none := rfl

@[simp] theorem hostLoad_width (c : Config) (b : List Byte) (s : State) :
    (hostLoad c b s).width = none := rfl

@[simp] theorem hostLoad_height (c : Config) (b : List Byte) (s : State) :
    (hostLoad c b s).height = none := rfl

@[simp] theorem hostLoad_clutLen (c : Config) (b : List Byte) (s : State) :
    (hostLoad c b s).clutLen = none := rfl

@[simp] theorem hostLoad_errSize (c : Config) (b : List Byte) (s : State) :
    (hostLoad c b s).errSize = none := rfl

@[simp] theorem hostLoad_clut (c : Config) (b : List Byte) (s : State) :
    (hostLoad c b s).clut = [] := rfl

@[simp] theorem hostLoad_idx (c : Config) (b : List Byte) (s : State) :
    (hostLoad c b s).idx = [] := rfl

@[simp] theorem hostLoad_rgb (c : Config) (b : List Byte) (s : State) :
    (hostLoad c b s).rgb = [] := rfl

@[simp] theorem hostLoad_pending (c : Config) (b : List Byte) (s : State) :
    (hostLoad c b s).pending = s.pending := rfl

@[simp] theorem hostLoad_replies (c : Config) (b : List Byte) (s : State) :
    (hostLoad c b s).replies = s.replies := rfl

/-! ### State.withFetchWord -/

@[simp] theorem withFetchWord_buf (s : State) (nbits w : Nat) :
    (s.withFetchWord nbits w).buf = s.buf := rfl

@[simp] theorem withFetchWord_len (s : State) (nbits w : Nat) :
    (s.withFetchWord nbits w).len = w % 2 ^ nbits := rfl

@[simp] theorem withFetchWord_status (s : State) (nbits w : Nat) :
    (s.withFetchWord nbits w).status = s.status := rfl

@[simp] theorem withFetchWord_fmt (s : State) (nbits w : Nat) :
    (s.withFetchWord nbits w).fmt = s.fmt := rfl

@[simp] theorem withFetchWord_width (s : State) (nbits w : Nat) :
    (s.withFetchWord nbits w).width = s.width := rfl

@[simp] theorem withFetchWord_height (s : State) (nbits w : Nat) :
    (s.withFetchWord nbits w).height = s.height := rfl

@[simp] theorem withFetchWord_clutLen (s : State) (nbits w : Nat) :
    (s.withFetchWord nbits w).clutLen = s.clutLen := rfl

@[simp] theorem withFetchWord_errSize (s : State) (nbits w : Nat) :
    (s.withFetchWord nbits w).errSize = s.errSize := rfl

@[simp] theorem withFetchWord_clut (s : State) (nbits w : Nat) :
    (s.withFetchWord nbits w).clut = s.clut := rfl

@[simp] theorem withFetchWord_idx (s : State) (nbits w : Nat) :
    (s.withFetchWord nbits w).idx = s.idx := rfl

@[simp] theorem withFetchWord_rgb (s : State) (nbits w : Nat) :
    (s.withFetchWord nbits w).rgb = s.rgb := rfl

@[simp] theorem withFetchWord_pending (s : State) (nbits w : Nat) :
    (s.withFetchWord nbits w).pending = .start :: s.pending := rfl

@[simp] theorem withFetchWord_replies (s : State) (nbits w : Nat) :
    (s.withFetchWord nbits w).replies = s.replies := rfl

end Sys2Proof.Laws
end

