-- ==== Sys2Proof/Laws/Memory.lean ====
section
/-! SUPPORT. The laws of the buffer memory: a read after a write, and the canonical form kept by
every operation. -/

namespace Sys2Proof.Laws

open Sys2Proof.Machine

@[simp] theorem memory_read_nil (a : Nat) : Memory.read [] a = unlistedByte := rfl

/-- A canonical memory from `lo` on lists nothing below `lo`. -/
theorem memory_read_below (m : Memory) (lo a : Nat) (h : m.wfFrom lo = true) (ha : a < lo) :
    m.read a = unlistedByte := by
  induction m generalizing lo with
  | nil => rfl
  | cons cell m ih =>
    obtain ⟨b, w⟩ := cell
    simp only [Memory.wfFrom, Bool.and_eq_true, decide_eq_true_eq] at h
    have hne : a ≠ b := by omega
    simp only [Memory.read, if_neg hne]
    exact ih (b + 1) h.2.2 (by omega)

/-- A byte just written is the byte read. -/
theorem memory_read_write_same (m : Memory) (lo a : Nat) (v : Byte) (h : m.wfFrom lo = true) :
    (m.write a v).read a = v := by
  induction m generalizing lo with
  | nil =>
    simp only [Memory.write]
    split <;> simp_all [Memory.read]
  | cons cell m ih =>
    obtain ⟨b, w⟩ := cell
    simp only [Memory.wfFrom, Bool.and_eq_true, decide_eq_true_eq] at h
    have below := fun ha => memory_read_below m (b + 1) a h.2.2 ha
    have later := ih (b + 1) h.2.2
    simp only [Memory.write]
    split_ifs with h1 h2 h3 h4
    · simp only [Memory.read, if_neg (by omega : a ≠ b)]
      rw [below (by omega), h2]
    · simp [Memory.read]
    · rw [below (by omega), h4]
    · simp [Memory.read]
    · simp only [Memory.read, if_neg h3]
      exact later

/-- A write leaves every other offset as it was. -/
theorem memory_read_write_other (m : Memory) (a b : Nat) (v : Byte) (hab : b ≠ a) :
    (m.write a v).read b = m.read b := by
  induction m with
  | nil =>
    simp only [Memory.write]
    split <;> simp [Memory.read, hab]
  | cons cell m ih =>
    obtain ⟨c, w⟩ := cell
    simp only [Memory.write]
    split_ifs with h1 h2 h3 h4
    · rfl
    · simp [Memory.read, hab]
    · subst h3; simp [Memory.read, hab]
    · subst h3; simp [Memory.read, hab]
    · simp only [Memory.read, ih]

theorem memory_wfFrom_mono (m : Memory) (lo lo' : Nat) (hle : lo' ≤ lo) (h : m.wfFrom lo = true) :
    m.wfFrom lo' = true := by
  cases m with
  | nil => rfl
  | cons cell m =>
    obtain ⟨b, w⟩ := cell
    simp only [Memory.wfFrom, Bool.and_eq_true, decide_eq_true_eq] at h ⊢
    exact ⟨by omega, h.2⟩

theorem memory_write_wfFrom (m : Memory) (lo a : Nat) (v : Byte) (hlo : lo ≤ a)
    (h : m.wfFrom lo = true) : (m.write a v).wfFrom lo = true := by
  induction m generalizing lo with
  | nil =>
    simp only [Memory.write]
    split <;> simp_all [Memory.wfFrom]
  | cons cell m ih =>
    obtain ⟨b, w⟩ := cell
    have hw := h
    simp only [Memory.wfFrom, Bool.and_eq_true, decide_eq_true_eq] at h
    simp only [Memory.write]
    split_ifs with h1 h2 h3 h4
    · exact hw
    · simp only [Memory.wfFrom, Bool.and_eq_true, decide_eq_true_eq]
      exact ⟨hlo, h2, h1, h.2.1, h.2.2⟩
    · exact memory_wfFrom_mono m (b + 1) lo (by omega) h.2.2
    · subst h3
      simp only [Memory.wfFrom, Bool.and_eq_true, decide_eq_true_eq]
      exact ⟨hlo, h4, h.2.2⟩
    · simp only [Memory.wfFrom, Bool.and_eq_true, decide_eq_true_eq]
      exact ⟨h.1, h.2.1, ih (b + 1) (by omega) h.2.2⟩

/-- A write keeps the canonical form. -/
theorem memory_write_wf (m : Memory) (a : Nat) (v : Byte) (h : m.wf = true) :
    (m.write a v).wf = true :=
  memory_write_wfFrom m 0 a v (Nat.zero_le a) h

/-- Writing a sequence keeps the canonical form. -/
theorem memory_writeBytes_wf (m : Memory) (a : Nat) (vs : List Byte) (h : m.wf = true) :
    (m.writeBytes a vs).wf = true := by
  induction vs generalizing m a with
  | nil => exact h
  | cons v vs ih => exact ih (m.write a v) (a + 1) (memory_write_wf m a v h)

/-- The reset memory is canonical. -/
theorem memory_reset_wf : State.reset.buf.wf = true := rfl

/-- Offsets outside the written sequence are unchanged. -/
theorem memory_read_writeBytes_outside (m : Memory) (a b : Nat) (vs : List Byte)
    (h : b < a ∨ a + vs.length ≤ b) : (m.writeBytes a vs).read b = m.read b := by
  induction vs generalizing m a with
  | nil => rfl
  | cons v vs ih =>
    simp only [List.length_cons] at h
    simp only [Memory.writeBytes]
    rw [ih (m.write a v) (a + 1) (by omega)]
    exact memory_read_write_other m a b v (by omega)

/-- Inside the written sequence, each offset reads the byte written to it. -/
theorem memory_read_writeBytes_inside (m : Memory) (a k : Nat) (vs : List Byte) (v : Byte)
    (hm : m.wf = true) (h : vs[k]? = some v) : (m.writeBytes a vs).read (a + k) = v := by
  induction vs generalizing m a k with
  | nil => simp at h
  | cons u vs ih =>
    simp only [Memory.writeBytes]
    cases k with
    | zero =>
      rw [memory_read_writeBytes_outside _ _ _ _ (by omega)]
      simp only [List.getElem?_cons_zero, Option.some.injEq] at h
      rw [← h]
      exact memory_read_write_same m 0 a u hm
    | succ k =>
      have := ih (m.write a u) (a + 1) k (memory_write_wf m a u hm) (by simpa using h)
      rw [← this]
      congr 1
      omega

/-- Every offset a write leaves listed was listed or is the one written. -/
theorem memory_mem_write (m : Memory) (a : Nat) (v : Byte) (cell : Host.Cell)
    (h : cell ∈ m.write a v) : cell ∈ m ∨ cell.1 = a := by
  induction m with
  | nil =>
    simp only [Memory.write] at h
    split at h <;> simp_all
  | cons c m ih =>
    obtain ⟨b, w⟩ := c
    simp only [Memory.write] at h
    split_ifs at h
    · exact .inl h
    · rcases List.mem_cons.mp h with rfl | h
      · exact .inr rfl
      · exact .inl h
    · exact .inl (List.mem_cons_of_mem _ h)
    · rcases List.mem_cons.mp h with rfl | h
      · exact .inr rfl
      · exact .inl (List.mem_cons_of_mem _ h)
    · rcases List.mem_cons.mp h with rfl | h
      · exact .inl (List.mem_cons_self)
      · rcases ih h with h | h
        · exact .inl (List.mem_cons_of_mem _ h)
        · exact .inr h

/-- Every offset listed after a sequence is written was listed or is inside the sequence. -/
theorem memory_mem_writeBytes (m : Memory) (a : Nat) (vs : List Byte) (cell : Host.Cell)
    (h : cell ∈ m.writeBytes a vs) : cell ∈ m ∨ (a ≤ cell.1 ∧ cell.1 < a + vs.length) := by
  induction vs generalizing m a with
  | nil => exact .inl h
  | cons v vs ih =>
    simp only [List.length_cons]
    rcases ih (m.write a v) (a + 1) h with h | h
    · rcases memory_mem_write m a v cell h with h | h
      · exact .inl h
      · exact .inr (by omega)
    · exact .inr (by omega)

end Sys2Proof.Laws
end

