-- ==== Sys2Proof/Laws/Tabulate.lean ====
section
/-! SUPPORT. Lists indexed by position. -/

namespace Sys2Proof.Laws

open Sys2Proof.Machine

@[simp] theorem tabulateFrom_length {α : Type} (f : Nat → α) (k n : Nat) :
    (tabulateFrom f k n).length = n := by
  induction n generalizing k with
  | zero => rfl
  | succ n ih => simp [tabulateFrom, ih]

theorem tabulateFrom_getElem? {α : Type} (f : Nat → α) (k n j : Nat) (h : j < n) :
    (tabulateFrom f k n)[j]? = some (f (k + j)) := by
  induction n generalizing k j with
  | zero => omega
  | succ n ih =>
    cases j with
    | zero => simp [tabulateFrom]
    | succ j =>
      simp only [tabulateFrom, List.getElem?_cons_succ]
      rw [ih (k + 1) j (by omega)]
      congr 2
      omega

@[simp] theorem tabulate_length {α : Type} (n : Nat) (f : Nat → α) : (tabulate n f).length = n :=
  tabulateFrom_length f 0 n

/-- Element k of a tabulation is the value at k. -/
theorem tabulate_getElem? {α : Type} (n : Nat) (f : Nat → α) (k : Nat) (h : k < n) :
    (tabulate n f)[k]? = some (f k) := by
  simpa [tabulate] using tabulateFrom_getElem? f 0 n k h

/-- What holds of every value tabulated holds of every member. -/
theorem tabulate_forall_mem {α : Type} (n : Nat) (f : Nat → α) (P : α → Prop)
    (h : ∀ k, k < n → P (f k)) : ∀ v ∈ tabulate n f, P v := by
  intro v hv
  obtain ⟨k, hk⟩ := List.getElem?_of_mem hv
  have hlt : k < n := by
    have := (List.getElem?_eq_some_iff.mp hk).1
    simpa using this
  rw [tabulate_getElem? n f k hlt] at hk
  cases hk
  exact h k hlt

theorem tabulate_congr {α : Type} (n : Nat) (f g : Nat → α) (h : ∀ k, k < n → f k = g k) :
    tabulate n f = tabulate n g := by
  apply List.ext_getElem?
  intro k
  by_cases hk : k < n
  · rw [tabulate_getElem? n f k hk, tabulate_getElem? n g k hk, h k hk]
  · rw [List.getElem?_eq_none (by simpa using hk), List.getElem?_eq_none (by simpa using hk)]

end Sys2Proof.Laws
end

