-- ==== Sys2Proof/Laws/Operands.lean ====
section
/-! SUPPORT. What each operand form can give: ranges of the pixel values and of the palette's
indices, and the values of the byte and port fields. -/

namespace Sys2Proof.Laws

open Sys2Proof.Machine

/-- The values an admissible configuration has (00_scope.md R7). -/
theorem config_wf_values (c : Config) (h : c.wf = true) :
    c.palEntries = 128 ∧
    c.intensity = [0x00#8, 0x24#8, 0x49#8, 0x6d#8, 0x92#8, 0xb6#8, 0xdb#8, 0xff#8] ∧
    c.rawSize = 98304 ∧ c.mode2Size = 12304 ∧ c.lin2Size = 24580 ∧ c.lin4Size = 24592 ∧
    c.height = 192 ∧ c.wideWidth = 512 ∧ c.narrowWidth = 256 ∧ 17 ≤ c.lenBits ∧
    98304 ≤ c.bufCap := by
  simp only [Config.wf, Config.sourceFixed, Bool.and_eq_true, decide_eq_true_eq] at h
  obtain ⟨⟨h1, h2, h3, h4, h5, h6, h7, h8, h9⟩, h10, h11⟩ := h
  exact ⟨h1, h2, h3, h4, h5, h6, h7, h8, h9, h10, h11⟩

theorem and_seven_lt (n : Nat) : n &&& 7 < 8 := Nat.and_lt_two_pow n (by decide : (7 : Nat) < 2 ^ 3)

theorem and_seven (n : Nat) : n &&& 7 = n % 8 := Nat.and_two_pow_sub_one_eq_mod n 3

theorem brightValue_cases (a : Byte) : brightValue a = 8 ∨ brightValue a = 0 := by
  unfold brightValue
  split <;> simp

/-- ATTRPIX gives a 4-bit value. -/
theorem attrPix_lt (a d : Byte) (x : Nat) : attrPix a d x < 16 := by
  have h := and_seven_lt (a.toNat >>> colourShift d x)
  rcases brightValue_cases a with hb | hb <;> · simp only [attrPix, hb]; omega

/-- A field of a linear byte is below 2^bpp. -/
theorem linearField_lt (n : Byte) (bpp i : Nat) : linearField n bpp i < 2 ^ bpp := by
  have : (1 <<< bpp : Nat) = 2 ^ bpp := by simp [Nat.shiftLeft_eq]
  simp only [linearField, this]
  exact Nat.and_lt_two_pow _ (Nat.sub_lt (Nat.two_pow_pos bpp) Nat.one_pos)

theorem linearPix_lt (n : Byte) (bpp k : Nat) : linearPix n bpp k < 2 ^ bpp :=
  linearField_lt n bpp _

/-- The PaletteIndex of a byte is its low 7 bits. -/
theorem paletteIndexOfByte_toNat (b : Byte) : (paletteIndexOfByte b).toNat = b.toNat % 128 := by
  have h : b.toNat &&& 0x7F = b.toNat % 128 := Nat.and_two_pow_sub_one_eq_mod b.toNat 7
  simp only [paletteIndexOfByte, h, BitVec.toNat_ofNat]
  omega

theorem redIndex_lt (i : Nat) : redIndex i < 8 := by
  have h1 : i &&& 0x02 < 2 ^ 3 := Nat.and_lt_two_pow _ (by decide)
  have h2 : (i &&& 0x20) >>> 3 < 2 ^ 3 := by
    have : i &&& 0x20 < 2 ^ 6 := Nat.and_lt_two_pow _ (by decide)
    simp only [Nat.shiftRight_eq_div_pow]; omega
  have h3 : (i &&& 0x08) >>> 3 < 2 ^ 3 := by
    have : i &&& 0x08 < 2 ^ 4 := Nat.and_lt_two_pow _ (by decide)
    simp only [Nat.shiftRight_eq_div_pow]; omega
  exact Nat.or_lt_two_pow (Nat.or_lt_two_pow h1 h2) h3

theorem greenIndex_lt (i : Nat) : greenIndex i < 8 := by
  have h1 : (i &&& 0x04) >>> 1 < 2 ^ 3 := by
    have : i &&& 0x04 < 2 ^ 3 := Nat.and_lt_two_pow _ (by decide)
    simp only [Nat.shiftRight_eq_div_pow]; omega
  have h2 : (i &&& 0x40) >>> 4 < 2 ^ 3 := by
    have : i &&& 0x40 < 2 ^ 7 := Nat.and_lt_two_pow _ (by decide)
    simp only [Nat.shiftRight_eq_div_pow]; omega
  have h3 : (i &&& 0x08) >>> 3 < 2 ^ 3 := by
    have : i &&& 0x08 < 2 ^ 4 := Nat.and_lt_two_pow _ (by decide)
    simp only [Nat.shiftRight_eq_div_pow]; omega
  exact Nat.or_lt_two_pow (Nat.or_lt_two_pow h1 h2) h3

theorem blueIndex_lt (i : Nat) : blueIndex i < 8 := by
  have h1 : (i &&& 0x01) <<< 1 < 2 ^ 3 := by
    have : i &&& 0x01 < 2 ^ 1 := Nat.and_lt_two_pow _ (by decide)
    simp only [Nat.shiftLeft_eq]; omega
  have h2 : (i &&& 0x10) >>> 2 < 2 ^ 3 := by
    have : i &&& 0x10 < 2 ^ 5 := Nat.and_lt_two_pow _ (by decide)
    simp only [Nat.shiftRight_eq_div_pow]; omega
  have h3 : (i &&& 0x08) >>> 3 < 2 ^ 3 := by
    have : i &&& 0x08 < 2 ^ 4 := Nat.and_lt_two_pow _ (by decide)
    simp only [Nat.shiftRight_eq_div_pow]; omega
  exact Nat.or_lt_two_pow (Nat.or_lt_two_pow h1 h2) h3

/-- INTENSITY is indexed inside its 8 entries. -/
theorem intensity_eq (c : Config) (hc : c.wf = true) (n : Nat) (h : n < 8) :
    c.intensity[n]? = some (intensity c n) := by
  have hl : n < c.intensity.length := by rw [(config_wf_values c hc).2.1]; exact h
  simp [intensity, hl]

/-- Two admissible configurations have the same palette. -/
theorem palRgb_config (c : Config) (hc : c.wf = true) (i : PaletteIndex) :
    palRgb c i = palRgb config i := by
  have hi : intensity c = intensity config := by
    funext n; simp only [intensity, (config_wf_values c hc).2.1]; rfl
  simp only [palRgb, hi]

/-- UNPACK yields 8 / bpp values. -/
theorem unpack_length (n : Byte) (bpp : Nat) : (unpack n bpp).length = pixelsPerByte bpp := by
  simp [unpack]

end Sys2Proof.Laws
end

