-- ==== Sys2Proof/Laws/Ops.lean ====
section
/-! SUPPORT. For each shared operation, once, everything it can do. -/

namespace Sys2Proof.Laws

open Sys2Proof.Machine

/-! ### Reads of the buffer -/

@[simp] theorem bufRead_withResult (s : State) (c : Config) (f : Format) (cl : List PaletteIndex)
    (ix : List LogicalColour) (ra : List Rgb) (a : Nat) :
    bufRead (s.withResult c f cl ix ra) a = bufRead s a := rfl

@[simp] theorem bufRead_discardResult (s : State) (a : Nat) :
    bufRead s.discardResult a = bufRead s a := rfl

@[simp] theorem bufRead_withPending (s : State) (cs : List HostCommand) (a : Nat) :
    bufRead (s.withPending cs) a = bufRead s a := rfl

@[simp] theorem bufRead_withReply (s : State) (v : ReadValue) (a : Nat) :
    bufRead (s.withReply v) a = bufRead s a := rfl

/-- LOAD stores byte a of its sequence at offset a, below BUF_CAP. -/
theorem bufRead_hostLoad_inside (c : Config) (b : List Byte) (s : State) (a : Nat) (v : Byte)
    (hs : s.buf.wf = true) (ha : a < c.bufCap) (hb : b[a]? = some v) :
    bufRead (hostLoad c b s) a = v := by
  have h : (b.take c.bufCap)[a]? = some v := by rw [List.getElem?_take_of_lt ha]; exact hb
  simpa [bufRead] using memory_read_writeBytes_inside s.buf 0 a (b.take c.bufCap) v hs h

/-- LOAD stores nothing past its sequence or past BUF_CAP. -/
theorem bufRead_hostLoad_outside (c : Config) (b : List Byte) (s : State) (a : Nat)
    (ha : min b.length c.bufCap ≤ a) : bufRead (hostLoad c b s) a = bufRead s a := by
  have : 0 + (b.take c.bufCap).length ≤ a := by
    rw [List.length_take]; omega
  exact memory_read_writeBytes_outside s.buf 0 a (b.take c.bufCap) (.inr this)

/-- LOAD keeps the buffer memory canonical. -/
theorem hostLoad_wf (c : Config) (b : List Byte) (s : State) (h : s.buf.wf = true) :
    (hostLoad c b s).buf.wf = true :=
  memory_writeBytes_wf s.buf 0 (b.take c.bufCap) h

/-! ### The common tail of a decode -/

/-- The stored CLUT has CLUTLEN entries, or none for RawIndexed. -/
theorem clutLoad_length (c : Config) (f : Format) (s : State) :
    (clutLoad c f s).length = if f = .rawIndexed then 0 else formatClutLen f := by
  cases f <;> simp [clutLoad, clutOffset]

/-- A stored CLUT entry is the low 7 bits of its CLUT byte. -/
theorem clutLoad_getElem? (c : Config) (f : Format) (s : State) (off j : Nat)
    (ho : clutOffset c f = some off) (hj : j < formatClutLen f) :
    (clutLoad c f s)[j]? = some (paletteIndexOfByte (bufRead s (off + j))) := by
  have h : clutAt c f s j = paletteIndexOfByte (bufRead s (off + j)) := by simp [clutAt, ho]
  rw [← h]
  simp only [clutLoad, ho]
  exact tabulate_getElem? _ _ j hj

@[simp] theorem clutMap_length (c : Config) (f : Format) (s : State) (ix : List LogicalColour) :
    (clutMap c f s ix).length = ix.length := by simp [clutMap]

/-- Under PAL_HI_POLICY = mask no byte stops a decode. -/
theorem palHiStop_mask (c : Config) (f : Format) (s : State) (h : c.palHiPolicy = .mask) :
    palHiStop c f s = none := by simp [palHiStop, h]

/-- A decode that gives a next state had its whole layout in BUF, met no policy stop, and wrote
exactly the result. -/
theorem runDecode_next {c : Config} {f : Format} {px : List LogicalColour} {s t : State}
    (h : runDecode c f px s = .next t) :
    formatSize c f ≤ s.len ∧ palHiStop c f s = none ∧
      t = s.withResult c f (clutLoad c f s) px (clutMap c f s px) := by
  unfold runDecode at h
  split at h
  · cases h
  · split at h
    · cases h
    · rename_i hlen _ hp
      exact ⟨by omega, hp, by cases h; rfl⟩

/-- A decode never refuses, and each of its faults has its cause. -/
theorem runDecode_cases (c : Config) (f : Format) (px : List LogicalColour) (s : State) :
    (s.len < formatSize c f ∧ runDecode c f px s = .fault (.bufTooShort s.len)) ∨
    (formatSize c f ≤ s.len ∧ ∃ a, palHiStop c f s = some a ∧
      runDecode c f px s = .fault (.paletteByteHigh a)) ∨
    (formatSize c f ≤ s.len ∧ palHiStop c f s = none ∧
      runDecode c f px s = .next (s.withResult c f (clutLoad c f s) px (clutMap c f s px))) := by
  unfold runDecode
  by_cases hlen : s.len < formatSize c f
  · exact .inl ⟨hlen, by simp [hlen]⟩
  · cases hp : palHiStop c f s with
    | none => exact .inr (.inr ⟨by omega, rfl, by simp [hlen]⟩)
    | some a => exact .inr (.inl ⟨by omega, a, rfl, by simp [hlen]⟩)

/-! ### The operations -/

/-- What each operation's pixel loop writes to IDX. -/
def execPixels (i : Instr) (s : State) : List LogicalColour :=
  match i with
  | .decRaw => tabulate (formatPixels config .rawIndexed) (rawPix s)
  | .decM1 => tabulate (formatPixels config .mode1) (fun k =>
      mode1Pixel s (gridX (formatWidth config .mode1) k) (gridY (formatWidth config .mode1) k))
  | .decM2 => tabulate (formatPixels config .mode2) (fun k =>
      mode2Pixel s (gridX (formatWidth config .mode2) k) (gridY (formatWidth config .mode2) k))
  | .decL2 => tabulate (formatPixels config .linear2bpp) (linearPixel s 2)
  | .decL4 => tabulate (formatPixels config .linear4bpp) (linearPixel s 4)

/-- Every operation is its pixel loop and the common tail. -/
theorem exec_eq_runDecode (i : Instr) (s : State) :
    exec i s = runDecode config (operationFormat i) (execPixels i s) s := by
  cases i <;> rfl

/-- The state an operation gives when it completes. -/
def execResult (i : Instr) (s : State) : State :=
  s.withResult config (operationFormat i) (clutLoad config (operationFormat i) s) (execPixels i s)
    (clutMap config (operationFormat i) s (execPixels i s))

/-- All an operation can do: complete with its result, or find the buffer too short. -/
theorem exec_cases (i : Instr) (s : State) :
    (s.len < formatSize config (operationFormat i) ∧
      exec i s = .fault (.bufTooShort s.len)) ∨
    (formatSize config (operationFormat i) ≤ s.len ∧ exec i s = .next (execResult i s)) := by
  have hp := palHiStop_mask config (operationFormat i) s rfl
  rw [exec_eq_runDecode]
  rcases runDecode_cases config (operationFormat i) (execPixels i s) s with h | ⟨h, a, ha, _⟩ | h
  · exact .inl h
  · rw [hp] at ha; cases ha
  · exact .inr ⟨h.1, h.2.2⟩

/-! ### The selector -/

/-- The decoder answers an operation exactly on the size of its format. -/
theorem decodeSelector_size {c : Config} {n : Nat} {i : Instr} (h : decodeSelector c n = .ok i) :
    n = formatSize c (operationFormat i) := by
  unfold decodeSelector classify at h
  split at h
  · rename_i f hf
    split_ifs at hf with h1 h2 h3 h4 h5 <;> cases hf <;> cases h <;> assumption
  · cases h

/-- The decoder's only error carries the observed size. -/
theorem decodeSelector_error {c : Config} {n : Nat} {e : DecodeError}
    (h : decodeSelector c n = .error e) : e = .unsupportedFormat n := by
  unfold decodeSelector classify at h
  split at h
  · cases h
  · rename_i f hf
    split_ifs at hf
    cases hf; cases h; rfl

/-! ### The host's commands -/

/-- All START can do. -/
theorem startDecode_cases (s : State) :
    (∃ i, decodeSelector config s.len = .ok i ∧
      startDecode s = .next (execResult i s.discardResult)) ∨
    (decodeSelector config s.len = .error (.unsupportedFormat s.len) ∧
      startDecode s = .next (takeUnsupportedFormat s.len s.discardResult)) := by
  unfold startDecode fetchSelector
  cases h : decodeSelector config s.len with
  | ok i =>
    refine .inl ⟨i, rfl, ?_⟩
    have hsize := decodeSelector_size h
    rcases exec_cases i s.discardResult with ⟨hlt, _⟩ | ⟨_, he⟩
    · simp only [discardResult_len] at hlt; omega
    · exact he
  | error e => rw [decodeSelector_error h]; exact .inr ⟨rfl, rfl⟩

/-- All a read can do. -/
theorem answerRead_cases (r : HostRead) (s : State) :
    (∃ v, hostRead config r s = some v ∧ answerRead r s = .next (s.withReply v)) ∨
    (hostRead config r s = none ∧ answerRead r s = .refused (.readHasNoValue r)) := by
  unfold answerRead
  cases h : hostRead config r s with
  | none => exact .inr ⟨rfl, rfl⟩
  | some v => exact .inl ⟨v, rfl, rfl⟩

/-- All a step can do when it gives a next state. -/
theorem step_next_cases {s t : State} (h : step s = .next t) :
    (s.pending = [] ∧ t = s) ∨
    (∃ rest, s.pending = .reset :: rest ∧ t = hostReset (s.withPending rest)) ∨
    (∃ b rest, s.pending = .load b :: rest ∧ t = hostLoad config b (s.withPending rest)) ∨
    (∃ rest i, s.pending = .start :: rest ∧ decodeSelector config s.len = .ok i ∧
      t = execResult i (s.withPending rest).discardResult) ∨
    (∃ rest, s.pending = .start :: rest ∧
      decodeSelector config s.len = .error (.unsupportedFormat s.len) ∧
      t = takeUnsupportedFormat s.len (s.withPending rest).discardResult) ∨
    (∃ r rest v, s.pending = .read r :: rest ∧ hostRead config r (s.withPending rest) = some v ∧
      t = (s.withPending rest).withReply v) := by
  unfold step at h
  split at h
  · rename_i hp
    exact .inl ⟨hp, by cases h; rfl⟩
  · rename_i cmd rest hp
    refine .inr ?_
    cases cmd with
    | reset => exact .inl ⟨rest, hp, by cases h; rfl⟩
    | load b => exact .inr (.inl ⟨b, rest, hp, by cases h; rfl⟩)
    | start =>
      have hs : startDecode (s.withPending rest) = .next t := h
      rcases startDecode_cases (s.withPending rest) with ⟨i, hi, he⟩ | ⟨hi, he⟩
      · rw [he] at hs
        exact .inr (.inr (.inl ⟨rest, i, hp, hi, by cases hs; rfl⟩))
      · rw [he] at hs
        exact .inr (.inr (.inr (.inl ⟨rest, hp, hi, by cases hs; rfl⟩)))
    | read r =>
      have hs : answerRead r (s.withPending rest) = .next t := h
      rcases answerRead_cases r (s.withPending rest) with ⟨v, hv, he⟩ | ⟨_, he⟩
      · rw [he] at hs
        exact .inr (.inr (.inr (.inr ⟨r, rest, v, hp, hv, by cases hs; rfl⟩)))
      · rw [he] at hs; cases hs

/-! ### Host reads see the block alone -/

@[simp] theorem hostRead_withPending (r : HostRead) (s : State) (cs : List HostCommand) :
    hostRead config r (s.withPending cs) = hostRead config r s := by cases r <;> rfl

@[simp] theorem hostRead_withReply (r : HostRead) (s : State) (v : ReadValue) :
    hostRead config r (s.withReply v) = hostRead config r s := by cases r <;> rfl

/-- Inside the grid, the pair (x, y) reads the element at its row-major position. -/
theorem gridAt_inside {α : Type} (s : State) (l : List α) (x y : Nat) (w : BitVec 10)
    (h : BitVec 8) (hw : s.width = some w) (hh : s.height = some h) (hx : x < w.toNat)
    (hy : y < h.toNat) : gridAt s l x y = l[gridPos w.toNat x y]? := by
  simp [gridAt, hw, hh, hx, hy]

/-! ### What the pixel loops write -/

/-- A pixel loop writes one entry for each pixel of its format. -/
theorem execPixels_length (i : Instr) (s : State) :
    (execPixels i s).length = formatPixels config (operationFormat i) := by
  cases i <;> simp [execPixels, operationFormat]

/-! ### A result is a function of the buffer -/

/-- What the pixel loop writes depends on BUF alone. -/
theorem execPixels_congr (i : Instr) (s u : State) (h : ∀ a, bufRead s a = bufRead u a) :
    execPixels i s = execPixels i u := by
  have hr : rawPix s = rawPix u := funext fun k => by simp only [rawPix, h]
  have h1 : mode1Pixel s = mode1Pixel u := funext fun x => funext fun y => by
    simp only [mode1Pixel, h]
  have h2 : mode2Pixel s = mode2Pixel u := funext fun x => funext fun y => by
    simp only [mode2Pixel, h]
  have hl : linearPixel s = linearPixel u := funext fun bpp => funext fun k => by
    simp only [linearPixel, h]
  cases i <;> simp only [execPixels, hr, h1, h2, hl]

/-- The CLUT of a decode depends on BUF alone. -/
theorem clutAt_congr (c : Config) (f : Format) (s u : State) (h : ∀ a, bufRead s a = bufRead u a) :
    clutAt c f s = clutAt c f u := by
  funext j
  unfold clutAt
  split
  · rfl
  · rw [h]

/-- Performing an operation on its own result gives that result again. -/
theorem execResult_execResult (i : Instr) (s : State) :
    execResult i (execResult i s) = execResult i s := by
  have h : ∀ a, bufRead (execResult i s) a = bufRead s a := fun _ => rfl
  have hp := execPixels_congr i _ _ h
  have hc := clutAt_congr config (operationFormat i) _ _ h
  rw [execResult, hp]
  simp only [clutMap, clutLoad, hc]
  rfl

end Sys2Proof.Laws
end

