-- ==== Sys2Proof/Laws/PerInstr.lean ====
section
/-! SUPPORT. Facts about each operation as syntax, one lemma per constructor. -/

namespace Sys2Proof.Laws

/-- The selector word of an operation is the size of its layout in bytes, under every admissible
configuration (30_encoding.md R81: the hexadecimal column equals the formula column), and the
operation is well formed. -/
def EncodesSize.Statement (i : Instr) : Prop :=
  i.wf = true ∧ ∀ c : Config, c.wf = true → (encode c i).toNat = formatSize c (operationFormat i)

theorem EncodesSize.decRaw : EncodesSize.Statement .decRaw :=
  ⟨rfl, fun c h => (config_wf_values c h).2.2.1.symm⟩

theorem EncodesSize.decM1 : EncodesSize.Statement .decM1 := by
  refine ⟨rfl, fun c _ => ?_⟩
  cases h : c.mode1Size <;> simp [encode, formatSize, operationFormat, mode1SizeBytes, h]

theorem EncodesSize.decM2 : EncodesSize.Statement .decM2 :=
  ⟨rfl, fun c h => (config_wf_values c h).2.2.2.1.symm⟩

theorem EncodesSize.decL2 : EncodesSize.Statement .decL2 :=
  ⟨rfl, fun c h => (config_wf_values c h).2.2.2.2.1.symm⟩

theorem EncodesSize.decL4 : EncodesSize.Statement .decL4 :=
  ⟨rfl, fun c h => (config_wf_values c h).2.2.2.2.2.1.symm⟩

end Sys2Proof.Laws
end

