-- ==== Sys2Proof/Laws/Run.lean ====
section
/-! SUPPORT. A run of the machine, one step at a time. -/

namespace Sys2Proof.Laws

open Sys2Proof.Machine

theorem run_zero (s : State) : Sys2Proof.core.run 0 s = .next s := rfl

theorem run_next {n : Nat} {s u : State} (h : step s = .next u) :
    Sys2Proof.core.run (n + 1) s = Sys2Proof.core.run n u := by
  have hc : Sys2Proof.core.step s = .next u := h
  simp only [Host.Core.run, hc]

theorem run_refused {n : Nat} {s : State} {r : Refusal} (h : step s = .refused r) :
    Sys2Proof.core.run (n + 1) s = .refused r := by
  have hc : Sys2Proof.core.step s = .refused r := h
  simp only [Host.Core.run, hc]

end Sys2Proof.Laws
end

