-- ==== Sys2Proof/Tests/Slice0.lean ====
section
/-! SUPPORT. Tests on fixed values, each expected result from the spec's text (the rule or the vector
of 95_test_vectors.md is named), and for every statement with hypotheses a witness that meets them. -/

namespace Sys2Proof.Tests

open Sys2Proof.Machine Sys2Proof.Safety Sys2Proof.Laws

/-! ### Helpers -/

/-- A block with a buffer of `n` bytes, the listed ones as given and the others 0, and one START. -/
def started (n : Nat) (cells : Memory) : State :=
  { State.reset with len := n, buf := cells, pending := [.start] }

/-- The next state of an outcome. -/
def after (o : Host.Outcome State Fault Refusal) : State :=
  match o with
  | .next s => s
  | .fault _ => State.reset
  | .refused _ => State.reset

/-! ### Ill-formed terms are refused, one for each check -/

theorem test_wf_instr_all : ∀ i : Instr, i.wf = true := by intro i; cases i <;> rfl

theorem test_wf_config : config.wf = true := by decide

theorem test_wf_refuses_len_bits : ({ config with lenBits := 16 } : Config).wf = false := by decide

theorem test_wf_refuses_buf_cap : ({ config with bufCap := 98303 } : Config).wf = false := by decide

theorem test_wf_refuses_pal_entries : ({ config with palEntries := 127 } : Config).wf = false := by
  decide

theorem test_wf_refuses_intensity :
    ({ config with intensity := [0x00, 0x24, 0x49, 0x6d, 0x92, 0xb6, 0xdb] } : Config).wf = false := by
  decide

theorem test_wf_refuses_raw_size : ({ config with rawSize := 98320 } : Config).wf = false := by decide

theorem test_wf_refuses_mode2_size : ({ config with mode2Size := 12303 } : Config).wf = false := by
  decide

theorem test_wf_refuses_lin2_size : ({ config with lin2Size := 24592 } : Config).wf = false := by decide

theorem test_wf_refuses_lin4_size : ({ config with lin4Size := 24580 } : Config).wf = false := by decide

theorem test_wf_refuses_height : ({ config with height := 384 } : Config).wf = false := by decide

theorem test_wf_refuses_wide_width : ({ config with wideWidth := 256 } : Config).wf = false := by decide

theorem test_wf_refuses_narrow_width : ({ config with narrowWidth := 512 } : Config).wf = false := by
  decide

theorem test_wf_refuses_clut : (HostRead.clut 128).wf = false := by decide

theorem test_wf_refuses_idx : (HostRead.idx 98304).wf = false := by decide

theorem test_wf_refuses_rgb : (HostRead.rgb 98304).wf = false := by decide

theorem test_wf_refuses_idx_column : (HostRead.idxAt 512 0).wf = false := by decide

theorem test_wf_refuses_idx_row : (HostRead.idxAt 0 192).wf = false := by decide

theorem test_wf_refuses_rgb_column : (HostRead.rgbAt 512 0).wf = false := by decide

theorem test_wf_refuses_rgb_row : (HostRead.rgbAt 0 192).wf = false := by decide

theorem test_wf_refuses_pal : (HostRead.pal 128).wf = false := by decide

theorem test_wf_refuses_long_load :
    (HostCommand.load [0x00]).wf { config with lenBits := 0 } = false := by decide

theorem test_wf_refuses_bad_read : (HostCommand.read (.pal 128)).wf config = false := by decide

/-! ### Decoding: the encoding column of opcode_table.json, bit by bit -/

theorem test_decode_dec_raw :
    decodeTableWord 32 0b00000000000000011000000000000000 = some .decRaw := by decide

theorem test_decode_dec_m1 :
    decodeTableWord 32 0b00000000000000000001101100010000 = some .decM1 := by decide

theorem test_decode_dec_m2 :
    decodeTableWord 32 0b00000000000000000011000000010000 = some .decM2 := by decide

theorem test_decode_dec_l2 :
    decodeTableWord 32 0b00000000000000000110000000000100 = some .decL2 := by decide

theorem test_decode_dec_l4 :
    decodeTableWord 32 0b00000000000000000110000000010000 = some .decL4 := by decide

/-- 95_test_vectors.md section 3: one byte short of Mode2. -/
theorem test_classify_12303 : classify config 12303 = .error (.unsupportedFormat 12303) := by rfl

/-- Section 3: 2^32 + 6928 does not wrap to 6928. -/
theorem test_classify_no_wrap :
    classify config 4294974224 = .error (.unsupportedFormat 4294974224) := by rfl

/-- Section 3, column MODE1_SIZE = 7120. -/
theorem test_classify_as_printed :
    classify { config with mode1Size := .asPrinted } 7120 = .ok .mode1 ∧
    classify { config with mode1Size := .asPrinted } 6928 = .error (.unsupportedFormat 6928) :=
  ⟨rfl, rfl⟩

/-! ### Functions, on the vectors of 95_test_vectors.md -/

/-- Section 2, entries 0x2A, 0x5D and 0x11. -/
theorem test_palette_entries :
    palRgb config 0x2A = ⟨0xff, 0x24, 0x24⟩ ∧ palRgb config 0x5D = ⟨0x24, 0xff, 0xff⟩ ∧
    palRgb config 0x11 = ⟨0x00, 0x00, 0xdb⟩ := by decide

/-- Section 4, the row (13, 57). -/
theorem test_offsets_13_57 :
    m1Data 13 57 = 481 ∧ m1Attr 13 57 = 6369 ∧ m2Data 13 57 = 1825 ∧ m2Attr 13 57 = 7969 ∧
    dataMask 13 = 0x04 := by decide

/-- Section 4, the rows (128, 96) and (255, 191). -/
theorem test_offsets_edges :
    m1Data 128 96 = 2192 ∧ m1Attr 128 96 = 6544 ∧ m2Data 128 96 = 3088 ∧ m2Attr 128 96 = 9232 ∧
    m1Data 255 191 = 6143 ∧ m1Attr 255 191 = 6911 ∧ m2Attr 255 191 = 12287 := by decide

/-- Section 5: 0x68 with 0x10 at columns 3 and 4, 0xB8 with 0x00, 0x47 with 0x80 at 0. -/
theorem test_attr_pix :
    attrPix 0x68 0x10 3 = 8 ∧ attrPix 0x68 0x10 4 = 13 ∧ attrPix 0xB8 0x00 3 = 7 ∧
    attrPix 0x47 0x80 0 = 15 := by decide

/-- Section 6: 0x1B, 0xE4 and 0xAB. -/
theorem test_unpack :
    unpack 0x1B 2 = [0, 1, 2, 3] ∧ unpack 0xE4 2 = [3, 2, 1, 0] ∧ unpack 0xAB 4 = [10, 11] := by
  decide

/-- Section 6: LINPIX at k = 521 of 0x6C and at k = 49150, 49151 of 0x5E. -/
theorem test_linear_pix :
    linearOffset 2 521 = 130 ∧ linearPix 0x6C 2 521 = 2 ∧ linearOffset 4 49151 = 24575 ∧
    linearPix 0x5E 4 49150 = 5 ∧ linearPix 0x5E 4 49151 = 14 := by decide

/-! ### Steps, on the programs of 95_test_vectors.md section 8 -/

/-- P1, the buffer: one bright foreground pixel in Mode2. -/
def bufP1 : Memory :=
  [(0, 0x80), (0x1800, 0x47), (12289, 0x10), (12290, 0x20), (12291, 0x30), (12292, 0x04),
   (12293, 0x14), (12294, 0x24), (12295, 0x34), (12296, 0x08), (12297, 0x18), (12298, 0x28),
   (12299, 0x38), (12300, 0x4C), (12301, 0x5C), (12302, 0x6C), (12303, 0x7F)]

/-- P1: IDX[0] = 15, IDX[1] = IDX[7] = 8, IDX[8] = 0. -/
theorem test_step_m2_pixels :
    let t := after (step (started 12304 bufP1))
    t.idx[0]? = some 15 ∧ t.idx[1]? = some 8 ∧ t.idx[7]? = some 8 ∧ t.idx[8]? = some 0 := by
  decide +kernel

/-- P1: RGB[0] = PAL[127], RGB[1] = PAL[8], CLUT[5] = 20. -/
theorem test_step_m2_raster :
    let t := after (step (started 12304 bufP1))
    t.rgb[0]? = some ⟨0xff, 0xff, 0xff⟩ ∧ t.rgb[1]? = some ⟨0x24, 0x24, 0x24⟩ ∧
    t.clut[5]? = some 20 := by
  decide +kernel

/-- P2, the buffer: the row interleave and the 8×8 cell in Mode1. -/
def bufP2 : Memory :=
  [(256, 0xFF), (0x1800, 0x0A), (6912, 0x10), (6913, 0x22), (6914, 0x44), (6915, 0xFF)]

/-- P2: row 1 of the cell is foreground, row 0 background, the next cell 0. -/
theorem test_step_m1_pixels :
    let t := after (step (started 6928 bufP2))
    t.idx[0]? = some 1 ∧ t.idx[8]? = some 0 ∧ t.idx[256]? = some 2 ∧ t.idx[264]? = some 0 := by
  decide +kernel

/-- P2: CLUT[3] = 127 (bit 7 dropped); RGB[256] = PAL[68]. -/
theorem test_step_m1_raster :
    let t := after (step (started 6928 bufP2))
    t.clut[3]? = some 127 ∧ t.rgb[256]? = some ⟨0x00, 0xdb, 0x00⟩ ∧
    t.rgb[0]? = some ⟨0xdb, 0x00, 0x00⟩ := by
  decide +kernel

/-- P3, the buffer: sub-pixel order, row stride, CLUT high bit in Linear2bpp. -/
def bufP3 : Memory := [(0, 0x1B), (130, 0x6C), (24577, 0x11), (24578, 0xA2), (24579, 0x7F)]

/-- P3: IDX[0..3] = 0, 1, 2, 3 and IDX[520..523] = 1, 2, 3, 0. -/
theorem test_step_l2_pixels :
    let t := after (step (started 24580 bufP3))
    t.idx.take 4 = [0, 1, 2, 3] ∧ (t.idx.drop 520).take 4 = [1, 2, 3, 0] := by
  decide +kernel

/-- P3: CLUT = 0, 17, 34, 127; RGB[2] = PAL[34]. -/
theorem test_step_l2_raster :
    let t := after (step (started 24580 bufP3))
    t.clut = [0, 17, 34, 127] ∧ t.rgb[2]? = some ⟨0xdb, 0x00, 0x00⟩ := by
  decide +kernel

/-- P4, the last buffer (its CLUT bytes 0x70 to 0x7F), Linear4bpp. -/
def bufP4 : Memory := [(0, 0xAB), (24575, 0x5E), (24586, 0x7A), (24587, 0x7B)]

/-- P4: IDX[0] = 10, IDX[1] = 11 (scenario S4), RGB[1] = PAL[123]. -/
theorem test_step_l4_pixels :
    let t := after (step (started 24592 bufP4))
    t.idx.take 3 = [10, 11, 0] ∧ t.rgb[1]? = some ⟨0xff, 0xb6, 0xff⟩ := by
  decide +kernel

/-- R148: 256 × 192, 16 CLUT entries, FMT 4. -/
theorem test_step_l4_registers :
    let t := after (step (started 24592 bufP4))
    t.status = .done ∧ t.fmt = some .linear4bpp ∧ t.width = some 256 ∧ t.height = some 192 ∧
    t.clutLen = some 16 := by
  decide

/-- P5: IDX[513] = 42, RGB[513] = PAL[42]. -/
theorem test_step_raw_pixel :
    let t := after (step (started 98304 [(513, 0x2A)]))
    t.idx[513]? = some 42 ∧ t.rgb[513]? = some ⟨0xff, 0x24, 0x24⟩ := by
  decide +kernel

/-- R162, corner cases: 0x80 is PaletteIndex 0, 0xFF is 127; the CLUT is the identity. -/
theorem test_step_raw_high_bit :
    let t := after (step (started 98304 [(0, 0x80), (1, 0xFF)]))
    t.idx.take 3 = [0, 127, 0] ∧ hostRead config (.clut 127) t = some (.clutEntry 127) := by
  decide +kernel

/-- P4: a START on 12303 bytes ends in ERROR with ERRSIZE = 12303. -/
theorem test_step_unsupported :
    let t := after (step (started 12303 []))
    t.status = .error ∧ t.errSize = some 12303 ∧ t.fmt = none := by
  decide

/-- R206: WIDTH has no defined value in IDLE. -/
theorem test_read_refused_in_idle :
    hostRead config .width State.reset = none ∧ hostRead config .len State.reset = some (.length 0) := by decide

/-- 95_test_vectors.md section 2 and R168: entries 127 and 0x2A of PAL on the port, in IDLE. -/
theorem test_read_pal :
    hostRead config (.pal 127) State.reset = some (.colour 0xffffff#24) ∧
    hostRead config (.pal 0x2A) State.reset = some (.colour 0xff2424#24) := by decide

/-- R203: LOAD of two bytes; the canonical form drops the zero. -/
theorem test_load_two_bytes :
    (hostLoad config [0x00, 0x11] State.reset).buf = [(1, 0x11)] ∧
    (hostLoad config [0x00, 0x11] State.reset).len = 2 := by decide

/-- withFetchWord from reset: the next step runs the operation the word selects. -/
theorem test_fetch_word_runs :
    step (State.reset.withFetchWord 32 0x3010) =
      exec .decM2 ((State.reset.withFetchWord 32 0x3010).withPending []).discardResult := rfl

/-! ### Witnesses: a concrete state that meets the hypotheses of each statement -/

/-- A completed RawIndexed decode of an all-zero buffer. -/
def doneState : State := execResult .decRaw ((started 98304 []).withPending []).discardResult

/-- The state after a failed START on an empty buffer. -/
def errorState : State := takeUnsupportedFormat 0 State.reset

theorem doneState_next : exec .decRaw doneState = .next doneState := by
  rcases exec_cases .decRaw doneState with ⟨h, _⟩ | ⟨_, h⟩
  · exact absurd h (by decide)
  · rw [h]; exact congrArg _ (execResult_execResult _ _)

theorem doneState_inv : Inv doneState :=
  ⟨rfl, by decide, ⟨.decRaw, rfl, doneState_next⟩⟩

/-- A completed Mode1 decode, of the buffer of P2. -/
def doneMode1 : State := execResult .decM1 (started 6928 bufP2)

theorem doneMode1_inv : Inv doneMode1 := by
  refine ⟨by decide, by decide, ⟨.decM1, rfl, ?_⟩⟩
  rcases exec_cases .decM1 doneMode1 with ⟨h, _⟩ | ⟨_, h⟩
  · exact absurd h (by decide)
  · rw [h]; exact congrArg _ (execResult_execResult _ _)

theorem errorState_inv : Inv errorState :=
  ⟨rfl, by decide, ⟨rfl, rfl, rfl, rfl, rfl, rfl, rfl⟩, rfl, rfl⟩

theorem resetState_inv : Inv State.reset :=
  ⟨rfl, by decide, ⟨rfl, rfl, rfl, rfl, rfl, rfl, rfl⟩, rfl⟩

theorem test_witness_SelectsExactlyOnEqualSize :
    ({ config with mode1Size := .asPrinted } : Config).wf = true ∧ Instr.decM1.wf = true := by decide

theorem test_witness_OtherSizesUnsupported :
    config.wf = true ∧ ∀ i, (7120 : Nat) ≠ (encode config i).toNat := by
  refine ⟨rfl, ?_⟩
  intro i; cases i <;> decide

theorem test_witness_ClassifyBySizeAlone :
    ({ config with mode1Size := .asPrinted } : Config).wf = true := by decide

theorem test_witness_TableScanAgreesWithClassifier :
    config.wf = true ∧ scanRows (opcodeRows config) 0x3010#32 = some .decM2 := by decide

theorem test_witness_PaletteByBitFields :
    config.wf = true ∧ config.intensity[7]? = some (palRgb config 0x2A).r := by decide

theorem test_witness_PaletteEntriesDistinct :
    config.wf = true ∧ palRgb config 127 = palRgb config 0x7F := by decide

theorem test_witness_Mode1DataInterleaved :
    ((255 : Nat) < 256 ∧ (191 : Nat) < 192 ∧ (6143 : Nat) < 6144) ∧ m1Data 255 191 = 6143 := by decide

theorem test_witness_Mode1AttrPerCell :
    ((7 : Nat) < 256 ∧ (7 : Nat) < 192 ∧ (0 : Nat) < 256 ∧ (8 : Nat) < 192) ∧
    m1Attr 7 7 = m1Attr 0 0 ∧ m1Attr 7 7 ≠ m1Attr 0 8 := by decide

theorem test_witness_Mode2OffsetsLinear :
    ((255 : Nat) < 256 ∧ (191 : Nat) < 192 ∧ (6143 : Nat) < 6144) ∧ m2Data 255 191 = 6143 := by decide

theorem test_witness_AttrPixSelectsField :
    (0x3F#8).extractLsb' 0 3 = (0x3F#8).extractLsb' 3 3 ∧ attrPix 0x3F 0x00 0 = attrPix 0x3F 0xFF 0 := by
  decide

theorem test_witness_DecodeOffsetsInRange :
    config.wf = true ∧ 98303 < formatPixels config .rawIndexed ∧ 98303 < formatPixels config .linear2bpp ∧
    49151 < formatPixels config .linear4bpp ∧ clutOffset config .mode1 = some 6912 ∧
    15 < formatClutLen .mode1 ∧ (255 : Nat) < 256 ∧ (191 : Nat) < 192 := by decide

theorem test_witness_DecRawResult : (started 98304 []).len = 98304 := rfl

theorem test_witness_DecM1Result : (started 6928 bufP2).len = 6928 := rfl

theorem test_witness_Mode1DecodeAtEitherSize :
    ({ config with mode1Size := .asPrinted } : Config).wf = true ∧
    ({ config with mode1Size := .asPrinted } : Config).palHiPolicy = .mask ∧
    (started 7120 []).len = 7120 ∧
    (∃ t, decodeM1 { config with mode1Size := .asPrinted } (started 7120 [(7000, 0x55)]) = .next t) ∧
    (∀ a, a < 7120 → (a < 6912 ∨ 7120 - 16 ≤ a) →
      bufRead (started 7120 [(7000, 0x55)]) a = bufRead (started 7120 []) a) := by
  refine ⟨rfl, rfl, rfl, ⟨_, rfl⟩, fun a _ h => ?_⟩
  have h7 : a ≠ 7000 := by omega
  show (if a = 7000 then (0x55 : Byte) else unlistedByte) = unlistedByte
  rw [if_neg h7]

theorem test_witness_DecM2Result : (started 12304 bufP1).len = 12304 := rfl

theorem test_witness_DecL2Result : (started 24580 bufP3).len = 24580 := rfl

theorem test_witness_DecL4Result : (started 24592 bufP4).len = 24592 := rfl

theorem test_witness_LinearPixelsAreConcatenation :
    (∃ t, exec .decL2 (started 24580 bufP3) = .next t) ∧
    (∃ t, exec .decL4 (started 24592 bufP4) = .next t) := ⟨⟨_, rfl⟩, ⟨_, rfl⟩⟩

theorem test_witness_PixelRegionRecovered :
    (∃ t, exec .decL2 (started 24580 bufP3) = .next t) ∧
    (∃ t, exec .decL4 (started 24592 bufP4) = .next t) ∧ (24575 : Nat) < 24576 :=
  ⟨⟨_, rfl⟩, ⟨_, rfl⟩, by decide⟩

theorem test_witness_DecodeFrame : ∃ t, exec .decM1 (started 6928 bufP2) = .next t := ⟨_, rfl⟩

theorem test_witness_DecodeFaultsOnlyOnShortBuffer :
    (started 6927 []).len < formatSize config (operationFormat .decM1) ∧
    formatSize config (operationFormat .decM1) ≤ (started 6928 []).len := by decide

theorem test_witness_PoliciesAgreeOnLowBytes :
    config.wf = true ∧ ∀ a, a < formatSize config .linear2bpp →
      (∀ off, clutOffset config .linear2bpp = some off → off ≤ a) →
      (bufRead (started 24580 []) a).toNat < 128 := by
  refine ⟨rfl, ?_⟩
  intro a _ _
  show unlistedByte.toNat < 128
  decide

theorem test_witness_FaultPolicyStopsAtLowestHighByte :
    ({ config with palHiPolicy := .fault } : Config).wf = true ∧
    ({ config with palHiPolicy := .fault } : Config).palHiPolicy = .fault ∧
    formatSize { config with palHiPolicy := .fault } .linear2bpp ≤ (started 24580 bufP3).len ∧
    runDecode { config with palHiPolicy := .fault } .linear2bpp [] (started 24580 bufP3) =
      .fault (.paletteByteHigh 24578) := by
  refine ⟨rfl, rfl, by decide, rfl⟩

theorem test_witness_StepRunsSelectedOperation :
    (started 24580 []).pending = .start :: [] ∧
    decodeSelector config (started 24580 []).len = .ok .decL2 := ⟨rfl, rfl⟩

theorem test_witness_UnsupportedFormatEntry :
    (started 98320 []).pending = .start :: [] ∧ (started 98320 []).len ≠ 98304 ∧
    (started 98320 []).len ≠ 6928 ∧ (started 98320 []).len ≠ 12304 ∧
    (started 98320 []).len ≠ 24580 ∧ (started 98320 []).len ≠ 24592 := by decide

theorem test_witness_ErrorRaisedOnlyByStart :
    step (started 0 []) = .next errorState ∧ (started 0 []).status ≠ .error ∧
    errorState.status = .error ∧ (started 0 []).pending = .start :: [] ∧
    ∀ i, decodeSelector config (started 0 []).len ≠ .ok i := by
  refine ⟨rfl, by decide, rfl, rfl, ?_⟩
  intro i h; cases h

theorem test_witness_ErrorPersists :
    step (errorState.withPending [.read .errSize]) =
      .next (errorState.withReply (.length 0)) ∧ errorState.status = .error := ⟨rfl, rfl⟩

theorem test_witness_RepeatedStartSameError :
    Inv (errorState.withPending [.start]) ∧ (errorState.withPending [.start]).status = .error ∧
    (errorState.withPending [.start]).pending = .start :: [] := ⟨errorState_inv, rfl, rfl⟩

theorem test_witness_ResetFromAnyState :
    (doneState.withPending [.reset, .start]).pending = .reset :: [.start] := rfl

theorem test_witness_LoadEffect :
    (State.reset.withPending [.load [0x00, 0x11]]).buf.wf = true ∧
    (State.reset.withPending [.load [0x00, 0x11]]).pending = .load [0x00, 0x11] :: [] ∧
    (1 : Nat) < 98304 ∧ ([0x00, 0x11] : List Byte)[1]? = some 0x11 ∧
    min ([0x00, 0x11] : List Byte).length 98304 ≤ 2 := by decide

theorem test_witness_ReadsChangeNothing :
    (State.reset.withPending [.read .len]).pending = .read .len :: [] ∧
    step (State.reset.withPending [.read .len]) =
      .next (State.reset.withReply (.length 0)) := ⟨rfl, rfl⟩

theorem test_witness_ReadAnsweredIffAllowed :
    Inv (State.reset.withPending [.read .width]) ∧
    ReadAllowed .len (State.reset.withPending [.read .len]) ∧
    ¬ ReadAllowed .width (State.reset.withPending [.read .width]) ∧
    (State.reset.withPending [.read .width]).pending = .read .width :: [] ∧
    Inv (doneState.withPending [.read (.clut 127)]) ∧ doneState.fmt = some .rawIndexed :=
  ⟨resetState_inv, trivial, (by decide : ¬ Status.idle = Status.done), rfl,
    ⟨rfl, by decide, ⟨.decRaw, rfl, by
      rcases exec_cases .decRaw (doneState.withPending [.read (.clut 127)]) with ⟨h, _⟩ | ⟨_, h⟩
      · exact absurd h (by decide)
      · rw [h]; rfl⟩⟩, rfl⟩

theorem test_witness_RegistersValidInDone :
    State.reset.status ≠ .done ∧ Inv doneState ∧ doneState.status = .done :=
  ⟨by decide, doneState_inv, rfl⟩

theorem test_witness_HostReadsDeliverState :
    (0 < 128 ∧ 127 < 128) ∧ (Inv State.reset ∧ State.reset.status = .idle) ∧
    (Inv errorState ∧ errorState.status = .error) ∧
    (Inv doneState ∧ doneState.status = .done ∧ doneState.fmt = some .rawIndexed ∧
      98303 < formatPixels config .rawIndexed) ∧
    (Inv doneMode1 ∧ doneMode1.status = .done ∧ doneMode1.fmt = some .mode1 ∧
      49151 < formatPixels config .mode1 ∧ clutOffset config .mode1 = some 6912 ∧
      15 < formatClutLen .mode1) :=
  ⟨by decide, ⟨resetState_inv, rfl⟩, ⟨errorState_inv, rfl⟩, ⟨doneState_inv, rfl, rfl, by decide⟩,
    doneMode1_inv, rfl, rfl, by decide, rfl, by decide⟩

theorem test_witness_PairReadsAreRowMajor :
    Inv doneState ∧ doneState.width = some 512#10 ∧ 511 < (512#10).toNat ∧ (191 : Nat) < 192 :=
  ⟨doneState_inv, rfl, by decide, by decide⟩

theorem test_witness_ResultReadsCompose :
    Inv doneState ∧ doneState.fmt = some .rawIndexed ∧ 98303 < formatPixels config .rawIndexed :=
  ⟨doneState_inv, rfl, by decide⟩

theorem test_witness_IdleStepHolds : State.reset.pending = [] := rfl

theorem test_witness_BufferWrittenOnlyByLoad :
    step (started 0 []) = .next errorState ∧
    (∀ b rest, (started 0 []).pending ≠ .load b :: rest) ∧
    (∀ rest, (started 0 []).pending ≠ .reset :: rest) := by
  refine ⟨rfl, ?_, ?_⟩
  · intro b rest h; cases h
  · intro rest h; cases h

theorem test_witness_CommandsComplete :
    (started 6928 []).pending = .start :: [] ∧ ∀ r, HostCommand.start ≠ .read r := by
  refine ⟨rfl, ?_⟩
  intro r h; cases h

theorem test_witness_StepKeepsInvariant :
    Inv (errorState.withPending [.reset]) ∧
    step (errorState.withPending [.reset]) = .next State.reset := ⟨errorState_inv, rfl⟩

theorem test_witness_EveryRunEnds : Inv (State.reset.withPending [.start, .read .errSize]) :=
  resetState_inv

theorem test_witness_OutcomeDependsOnBufferOnly :
    (started 12303 []).pending = .start :: [] ∧
    (doneState.withPending [.start, .reset]).pending = .start :: [.reset] ∧
    (doneState.withPending [.start, .reset]).len = (started 98304 []).len ∧
    ∀ a, a < (started 98304 []).len →
      bufRead (started 98304 []) a = bufRead (doneState.withPending [.start, .reset]) a :=
  ⟨rfl, rfl, rfl, fun _ _ => rfl⟩

/-- A LOAD of `n` bytes of 0x5E and a START, after reset. -/
def loading (n : Nat) : State :=
  State.reset.withPending [.load (List.replicate n 0x5E), .start]

/-- The hypotheses hold for every length, and each clause of the statement has its length: the five
sizes, one that is none of them, and the last pixel of the grid. -/
theorem test_witness_LoadThenStartDecodesTheFile :
    (∀ n, (loading n).buf.wf = true ∧
      (loading n).pending = .load (List.replicate n 0x5E) :: .start :: [] ∧
      (List.replicate n (0x5E : Byte)).length = n) ∧
    98304 = formatSize config .rawIndexed ∧ 6928 = formatSize config .mode1 ∧
    12304 = formatSize config .mode2 ∧ 24580 = formatSize config .linear2bpp ∧
    24592 = formatSize config .linear4bpp ∧ (∀ f, 98320 ≠ formatSize config f) ∧
    (255 : Nat) < 256 ∧ (191 : Nat) < 192 :=
  ⟨fun _ => ⟨rfl, rfl, List.length_replicate⟩, rfl, rfl, rfl, rfl, rfl,
    by intro f; cases f <;> decide, by decide, by decide⟩

end Sys2Proof.Tests
end

section
/-! PROOFS, family 00_scope.md. A state that holds a result holds the whole of what one operation
gives; from that follow the length of every list of the result and the reads by coordinates. -/

namespace Sys2Proof.Proofs

open Sys2Proof.Machine Sys2Proof.Safety Sys2Proof.Laws

/-! ### What an operation's result holds -/

@[simp] theorem execResult_status (i : Instr) (s : State) : (execResult i s).status = .done := rfl

@[simp] theorem execResult_width (i : Instr) (s : State) :
    (execResult i s).width = some (BitVec.ofNat 10 (formatWidth config (operationFormat i))) := rfl

@[simp] theorem execResult_height (i : Instr) (s : State) :
    (execResult i s).height = some (BitVec.ofNat 8 (formatHeight config (operationFormat i))) := rfl

/-- IDX has one entry for each pixel of the format (10_state.md R32). -/
@[simp] theorem execResult_idx_length (i : Instr) (s : State) :
    (execResult i s).idx.length = formatPixels config (operationFormat i) :=
  execPixels_length i s

/-- This machine's widths fit the 10-bit register WIDTH (10_state.md R27). -/
theorem width_register_toNat (f : Format) :
    (BitVec.ofNat 10 (formatWidth config f)).toNat = formatWidth config f := by
  cases f <;> rfl

/-- This machine's height fits the 8-bit register HEIGHT (10_state.md R27). -/
theorem height_register_toNat (f : Format) :
    (BitVec.ofNat 8 (formatHeight config f)).toNat = formatHeight config f := by
  cases f <;> rfl

theorem formatHeight_config (f : Format) : formatHeight config f = 192 := by cases f <;> rfl

/-! ### What an invariant state with a result holds -/

/-- A result that agrees with the buffer is, field for field, the result of the operation LEN
selects. -/
theorem execResult_eq_of_decodedFromBuffer {s : State} (h : DecodedFromBuffer s) :
    ∃ i, decodeSelector config s.len = .ok i ∧ execResult i s = s := by
  obtain ⟨i, hsel, hexec⟩ := h
  refine ⟨i, hsel, ?_⟩
  rcases exec_cases i s with ⟨_, hfault⟩ | ⟨_, hnext⟩
  · rw [hfault] at hexec; cases hexec
  · exact Host.Outcome.next.inj (hnext.symm.trans hexec)

/-- Only DONE validates the result (10_state.md R36). -/
theorem noResult_of_not_done {s : State} (hinv : Inv s) (hst : s.status ≠ .done) : NoResult s := by
  obtain ⟨_, _, hagrees⟩ := hinv
  unfold StatusAgrees at hagrees
  cases hs : s.status with
  | idle => rw [hs] at hagrees; exact hagrees.1
  | done => exact absurd hs hst
  | error => rw [hs] at hagrees; exact hagrees.1

theorem status_done_of_width {s : State} {w : BitVec 10} (hinv : Inv s) (hw : s.width = some w) :
    s.status = .done := by
  by_contra hst
  obtain ⟨_, hnone, _⟩ := noResult_of_not_done hinv hst
  rw [hnone] at hw
  cases hw

/-- In DONE an invariant state holds the result of the operation LEN selects. -/
theorem execResult_eq_of_done {s : State} (hinv : Inv s) (hst : s.status = .done) :
    ∃ i, decodeSelector config s.len = .ok i ∧ execResult i s = s := by
  obtain ⟨_, _, hagrees⟩ := hinv
  unfold StatusAgrees at hagrees
  rw [hst] at hagrees
  exact execResult_eq_of_decodedFromBuffer hagrees

/-! ### Reads by coordinates (00_scope.md R13) -/

/-- A pair inside a grid has its position inside the grid's list. -/
theorem gridPos_lt {w h x y : Nat} (hx : x < w) (hy : y < h) : gridPos w x y < w * h :=
  calc y * w + x < y * w + w := Nat.add_lt_add_left hx _
    _ = (y + 1) * w := (Nat.succ_mul y w).symm
    _ ≤ h * w := Nat.mul_le_mul_right w hy
    _ = w * h := Nat.mul_comm h w

section PairReads

variable {s : State} {w : BitVec 10} {h : BitVec 8} {x y : Nat}

theorem hostRead_idxAt_inside (c : Config) (hw : s.width = some w) (hh : s.height = some h)
    (hx : x < w.toNat) (hy : y < h.toNat) :
    hostRead c (.idxAt x y) s = hostRead c (.idx (gridPos w.toNat x y)) s := by
  simp only [hostRead, gridAt_inside s s.idx x y w h hw hh hx hy]

theorem hostRead_rgbAt_inside (c : Config) (hw : s.width = some w) (hh : s.height = some h)
    (hx : x < w.toNat) (hy : y < h.toNat) :
    hostRead c (.rgbAt x y) s = hostRead c (.rgb (gridPos w.toNat x y)) s := by
  simp only [hostRead, gridAt_inside s s.rgb x y w h hw hh hx hy]

end PairReads

/-- In DONE a position inside IDX reads as an entry of it. -/
theorem hostRead_idx_of_lt (c : Config) {s : State} {k : Nat} (hst : s.status = .done)
    (hk : k < s.idx.length) : hostRead c (.idx k) s = some (.idxEntry s.idx[k]) := by
  simp [hostRead, whenDone, hst, hk]

/-! ### The statements -/

/-- Settles O25: the two cases of `exec_cases`, each with its range of LEN. -/
theorem decodeFaultsOnlyOnShortBuffer : Obligations.DecodeFaultsOnlyOnShortBuffer := by
  intro i s
  rcases exec_cases i s with ⟨hshort, hfault⟩ | ⟨hlong, hnext⟩
  · exact ⟨fun _ => hfault, fun hlong => absurd hshort (Nat.not_lt.mpr hlong)⟩
  · exact ⟨fun hshort => absurd hshort (Nat.not_lt.mpr hlong),
      fun _ => ⟨execResult i s, hnext, execResult_status i s⟩⟩

/-- Settles O41: WIDTH has a value only in DONE, where the state is an operation's result; its HEIGHT
is 192, and IDX reaches to every position of the grid. -/
theorem pairReadsAreRowMajor : Obligations.PairReadsAreRowMajor := by
  intro s w x y hinv hw hx hy
  have hst : s.status = .done := status_done_of_width hinv hw
  obtain ⟨i, _, hres⟩ := execResult_eq_of_done hinv hst
  have hwidth : w.toNat = formatWidth config (operationFormat i) := by
    have hreg := execResult_width i s
    rw [hres, hw, Option.some.injEq] at hreg
    rw [hreg, width_register_toNat]
  have hh : s.height = some (BitVec.ofNat 8 (formatHeight config (operationFormat i))) := by
    rw [← execResult_height i s, hres]
  have hyReg : y < (BitVec.ofNat 8 (formatHeight config (operationFormat i))).toNat := by
    rwa [height_register_toNat, formatHeight_config]
  have hpos : gridPos w.toNat x y < s.idx.length := by
    have hlen := execResult_idx_length i s
    rw [hres] at hlen
    rw [hlen, formatPixels, ← hwidth]
    exact gridPos_lt hx (by rwa [formatHeight_config])
  have hidx := hostRead_idxAt_inside config hw hh hx hyReg
  exact ⟨hidx, hostRead_rgbAt_inside config hw hh hx hyReg, s.idx[gridPos w.toNat x y],
    hidx.trans (hostRead_idx_of_lt config hst hpos)⟩

end Sys2Proof.Proofs
end

section
/-! PROOFS, family 10_state.md. STATUS and the state it validates, one lemma for each value of
STATUS; from them every command keeps the invariant, and the registers read in DONE are those of the
operation LEN selects. -/

namespace Sys2Proof.Proofs

open Sys2Proof.Machine Sys2Proof.Safety Sys2Proof.Laws

/-! ### What STATUS validates (10_state.md R25, R36) -/

theorem statusAgrees_of_idle {s : State} (hst : s.status = .idle) (hres : NoResult s)
    (herr : s.errSize = none) : StatusAgrees s := by
  unfold StatusAgrees
  rw [hst]
  exact ⟨hres, herr⟩

theorem statusAgrees_of_done {s : State} (hst : s.status = .done) (hdec : DecodedFromBuffer s) :
    StatusAgrees s := by
  unfold StatusAgrees
  rw [hst]
  exact hdec

theorem statusAgrees_of_error {s : State} (hst : s.status = .error) (hres : NoResult s)
    (herr : s.errSize = some s.len)
    (hsel : decodeSelector config s.len = .error (.unsupportedFormat s.len)) : StatusAgrees s := by
  unfold StatusAgrees
  rw [hst]
  exact ⟨hres, herr, hsel⟩

/-! ### The result of the operation LEN selects -/

/-- The operation LEN selects has its whole layout in BUF, so it completes (20_memory.md R55). -/
theorem exec_of_selected {s : State} {i : Instr} (hsel : decodeSelector config s.len = .ok i) :
    exec i s = .next (execResult i s) := by
  have hsize := decodeSelector_size hsel
  rcases exec_cases i s with ⟨hshort, _⟩ | ⟨_, hnext⟩
  · omega
  · exact hnext

/-- A state that is, field for field, the result of the operation its LEN selects holds the decode
of its buffer; the converse of `execResult_eq_of_decodedFromBuffer`. -/
theorem decodedFromBuffer_of_execResult_eq {s : State} {i : Instr}
    (hsel : decodeSelector config s.len = .ok i) (hres : execResult i s = s) :
    DecodedFromBuffer s :=
  ⟨i, hsel, by rw [exec_of_selected hsel, hres]⟩

theorem decodedFromBuffer_execResult {s : State} {i : Instr}
    (hsel : decodeSelector config s.len = .ok i) : DecodedFromBuffer (execResult i s) :=
  decodedFromBuffer_of_execResult_eq hsel (execResult_execResult i s)

/-- The host's side of the interface takes no part in a decode. -/
theorem execResult_hostSide (i : Instr) (s : State) (cs : List HostCommand) (vs : List ReadValue) :
    execResult i { s with pending := cs, replies := vs } =
      { execResult i s with pending := cs, replies := vs } := by
  cases i <;> rfl

theorem decodedFromBuffer_hostSide {s : State} (h : DecodedFromBuffer s) (cs : List HostCommand)
    (vs : List ReadValue) : DecodedFromBuffer { s with pending := cs, replies := vs } := by
  obtain ⟨i, hsel, hres⟩ := execResult_eq_of_decodedFromBuffer h
  exact decodedFromBuffer_of_execResult_eq hsel (by rw [execResult_hostSide, hres])

theorem statusAgrees_hostSide {s : State} (h : StatusAgrees s) (cs : List HostCommand)
    (vs : List ReadValue) : StatusAgrees { s with pending := cs, replies := vs } := by
  unfold StatusAgrees at h
  cases hst : s.status with
  | idle =>
    rw [hst] at h
    obtain ⟨hres, herr⟩ := h
    exact statusAgrees_of_idle rfl hres herr
  | done =>
    rw [hst] at h
    exact statusAgrees_of_done rfl (hst ▸ decodedFromBuffer_hostSide h cs vs)
  | error =>
    rw [hst] at h
    obtain ⟨hres, herr, hsel⟩ := h
    exact statusAgrees_of_error rfl hres herr hsel

/-! ### The buffer memory's part of the invariant (10_state.md R24) -/

/-- A buffer memory that is canonical and inside BUF_CAP: what the invariant says of BUF alone. -/
def BufferKept (m : Memory) : Prop := m.wf = true ∧ ∀ cell ∈ m, cell.1 < config.bufCap

theorem inv_iff (s : State) : Inv s ↔ BufferKept s.buf ∧ StatusAgrees s := and_assoc.symm

theorem bufferKept_nil : BufferKept [] := ⟨rfl, fun _ hcell => nomatch hcell⟩

/-- LOAD stores its first BUF_CAP bytes only, so it lists nothing past BUF_CAP (R203). -/
theorem bufferKept_hostLoad {s : State} (b : List Byte) (h : BufferKept s.buf) :
    BufferKept (hostLoad config b s).buf := by
  obtain ⟨hwf, hcap⟩ := h
  refine ⟨hostLoad_wf config b s hwf, fun cell hcell => ?_⟩
  rcases memory_mem_writeBytes s.buf 0 (b.take config.bufCap) cell hcell with hold | ⟨_, hnew⟩
  · exact hcap cell hold
  · have htake := List.length_take_le config.bufCap b
    omega

/-! ### Every command keeps the invariant -/

theorem inv_hostReset (s : State) : Inv (hostReset s) :=
  (inv_iff _).mpr ⟨bufferKept_nil,
    statusAgrees_of_idle rfl ⟨rfl, rfl, rfl, rfl, rfl, rfl, rfl⟩ rfl⟩

theorem inv_hostLoad {s : State} (b : List Byte) (h : BufferKept s.buf) :
    Inv (hostLoad config b s) :=
  (inv_iff _).mpr ⟨bufferKept_hostLoad b h,
    statusAgrees_of_idle rfl ⟨rfl, rfl, rfl, rfl, rfl, rfl, rfl⟩ rfl⟩

theorem inv_execResult {s : State} {i : Instr} (h : BufferKept s.buf)
    (hsel : decodeSelector config s.len = .ok i) : Inv (execResult i s) :=
  (inv_iff _).mpr ⟨h, statusAgrees_of_done rfl (decodedFromBuffer_execResult hsel)⟩

theorem inv_takeUnsupportedFormat {s : State} (h : BufferKept s.buf)
    (hsel : decodeSelector config s.len = .error (.unsupportedFormat s.len)) :
    Inv (takeUnsupportedFormat s.len s) :=
  (inv_iff _).mpr ⟨h, statusAgrees_of_error rfl ⟨rfl, rfl, rfl, rfl, rfl, rfl, rfl⟩ rfl hsel⟩

/-- The invariant speaks of the block alone: commands issued and answers received may change. -/
theorem inv_hostSide {s : State} (h : Inv s) (cs : List HostCommand) (vs : List ReadValue) :
    Inv { s with pending := cs, replies := vs } := by
  obtain ⟨hbuf, hagrees⟩ := (inv_iff s).mp h
  exact (inv_iff _).mpr ⟨hbuf, statusAgrees_hostSide hagrees cs vs⟩

/-! ### The registers of a result (10_state.md R26, R27, R29) -/

theorem whenDone_of_done {s : State} (hst : s.status = .done) (v : Option ReadValue) :
    whenDone s v = v := if_pos hst

theorem whenDone_of_not_done {s : State} (hst : s.status ≠ .done) (v : Option ReadValue) :
    whenDone s v = none := if_neg hst

section ResultRegisters

variable (c : Config) (i : Instr) (s : State)

theorem hostRead_status_execResult :
    hostRead c .status (execResult i s) = some (.status 1#2) := rfl

theorem hostRead_fmt_execResult :
    hostRead c .fmt (execResult i s) = some (.fmt (formatCode (operationFormat i))) :=
  whenDone_of_done (execResult_status i s) _

theorem hostRead_width_execResult :
    hostRead c .width (execResult i s) =
      some (.width (BitVec.ofNat 10 (formatWidth config (operationFormat i)))) :=
  whenDone_of_done (execResult_status i s) _

theorem hostRead_height_execResult :
    hostRead c .height (execResult i s) = some (.height 192#8) := by
  rw [← formatHeight_config (operationFormat i)]
  exact whenDone_of_done (execResult_status i s) _

theorem hostRead_clutLen_execResult :
    hostRead c .clutLen (execResult i s) =
      some (.clutLen (BitVec.ofNat 8 (formatClutLen (operationFormat i)))) :=
  whenDone_of_done (execResult_status i s) _

end ResultRegisters

/-- The selector's operation is the one of the classifier's format (41_classifier.md R113). -/
theorem classify_of_decodeSelector {c : Config} {n : Nat} {i : Instr}
    (hsel : decodeSelector c n = .ok i) : classify c n = .ok (operationFormat i) := by
  unfold decodeSelector at hsel
  cases hclass : classify c n with
  | ok f =>
    rw [hclass] at hsel
    obtain rfl : formatOperation f = i := Except.ok.inj hsel
    cases f <;> rfl
  | error e => rw [hclass] at hsel; cases hsel

/-! ### The statements -/

/-- Settles O49, by the cases of `step_next_cases`: each command ends in a state the invariant
holds of, and with no command or a read only the host's side of the interface changes. -/
theorem stepKeepsInvariant : Obligations.StepKeepsInvariant := by
  intro s t hinv hstep
  obtain ⟨hbuf, _⟩ := (inv_iff s).mp hinv
  rcases step_next_cases hstep with ⟨_, rfl⟩ | ⟨rest, _, rfl⟩ | ⟨b, rest, _, rfl⟩ |
    ⟨rest, i, _, hsel, rfl⟩ | ⟨rest, _, hsel, rfl⟩ | ⟨r, rest, v, _, _, rfl⟩
  · exact hinv
  · exact inv_hostReset _
  · exact inv_hostLoad b hbuf
  · exact inv_execResult hbuf hsel
  · exact inv_takeUnsupportedFormat (s := (s.withPending rest).discardResult) hbuf hsel
  · exact inv_hostSide hinv rest (s.replies ++ [v])

/-- Settles O39: in DONE the state is the result of the operation LEN selects, whose registers are
those of its format. -/
theorem registersValidInDone : Obligations.RegistersValidInDone := by
  refine ⟨fun s hst => ⟨whenDone_of_not_done hst _, whenDone_of_not_done hst _,
    whenDone_of_not_done hst _, whenDone_of_not_done hst _⟩, fun s hinv hst => ?_⟩
  obtain ⟨i, hsel, hres⟩ := execResult_eq_of_done hinv hst
  refine ⟨operationFormat i, classify_of_decodeSelector hsel, ?_⟩
  rw [← hres, hostRead_status_execResult, hostRead_fmt_execResult, hostRead_width_execResult,
    hostRead_height_execResult, hostRead_clutLen_execResult]
  cases i <;> exact ⟨rfl, rfl, rfl, rfl, rfl⟩

/-- Settles O9: the triple is `(r ++ g) ++ b`, and each field of the port is one part of it. -/
theorem portPacksRedHighest : Obligations.PortPacksRedHighest := by
  intro t
  have hhigh (start : Nat) (h : 8 ≤ start) :
      (rgbPort t).extractLsb' start 8 = (t.r ++ t.g).extractLsb' (start - 8) 8 :=
    BitVec.extractLsb'_append_eq_of_le h
  refine ⟨?_, ?_, BitVec.extractLsb'_append_eq_right⟩
  · rw [hhigh 16 (by decide)]
    exact BitVec.extractLsb'_append_eq_left
  · rw [hhigh 8 (by decide)]
    exact BitVec.extractLsb'_append_eq_right

end Sys2Proof.Proofs
end

section
/-! PROOFS, family 20_memory.md. The offsets of a decode as sums of bit fields, and from them its
range of BUF; what the result of an operation holds; what each command leaves as it was. -/

namespace Sys2Proof.Proofs

open Sys2Proof.Machine Sys2Proof.Safety Sys2Proof.Laws

/-! ### Offsets of Mode1 and Mode2 in division and remainder (42 R120, R121, 43 R135, R136) -/

/-- A mask of `n` ones from bit `k` on keeps the field of `n` bits there. -/
theorem and_shifted_mask (a n k : Nat) :
    a &&& ((2 ^ n - 1) <<< k) = (a / 2 ^ k % 2 ^ n) * 2 ^ k := by
  rw [← Nat.and_two_pow_sub_one_eq_mod, ← Nat.shiftRight_eq_div_pow, ← Nat.shiftLeft_eq]
  refine Nat.eq_of_testBit_eq fun i => ?_
  by_cases hi : k ≤ i <;> simp [hi, Bool.and_comm]

/-- The upper five bits of an 8-bit coordinate: the number of its 8-pixel cell. -/
theorem and_f8 (a : Nat) : a &&& 0xF8 = (a / 8 % 32) * 8 := and_shifted_mask a 5 3

theorem and_c0 (a : Nat) : a &&& 0xC0 = (a / 64 % 4) * 64 := and_shifted_mask a 2 6

theorem and_38 (a : Nat) : a &&& 0x38 = (a / 8 % 8) * 8 := and_shifted_mask a 3 3

theorem m1Data_eq (x y : Nat) :
    m1Data x y = 2048 * (y / 64 % 4) + 32 * (y / 8 % 8) + 256 * (y % 8) + x / 8 % 32 := by
  simp only [m1Data, and_c0, and_38, and_seven, and_f8, Nat.shiftLeft_eq, Nat.shiftRight_eq_div_pow]
  omega

theorem m1Attr_eq (x y : Nat) : m1Attr x y = 6144 + 32 * (y / 8 % 32) + x / 8 % 32 := by
  simp only [m1Attr, and_f8, Nat.shiftLeft_eq, Nat.shiftRight_eq_div_pow]
  omega

theorem m2Data_eq (x y : Nat) : m2Data x y = 32 * y + x / 8 % 32 := by
  simp only [m2Data, and_f8, Nat.shiftLeft_eq, Nat.shiftRight_eq_div_pow]
  omega

/-! ### Every pixel offset lies in the pixel region (R57 to R61) -/

section PixelOffsets

variable {x y : Nat}

theorem m1Data_lt (hy : y < 192) : m1Data x y < pixelRegionBytes .mode1 := by
  have hband : y / 64 < 3 := Nat.div_lt_of_lt_mul hy
  rw [m1Data_eq, Nat.mod_eq_of_lt (by omega : y / 64 < 4), pixelRegionBytes]
  omega

theorem m1Attr_lt (hy : y < 192) : m1Attr x y < pixelRegionBytes .mode1 := by
  rw [m1Attr_eq, pixelRegionBytes]
  omega

theorem m2Attr_lt (hy : y < 192) : m2Attr x y < pixelRegionBytes .mode2 := by
  rw [m2Attr, m2Data_eq, pixelRegionBytes]
  omega

theorem m2Data_lt (hy : y < 192) : m2Data x y < pixelRegionBytes .mode2 :=
  Nat.lt_of_le_of_lt (Nat.le_add_right _ _) (m2Attr_lt hy)

end PixelOffsets

/-- A linear region of `n` bytes holds the byte of each of its `pixelsPerByte bpp * n` pixels. -/
theorem linearOffset_lt {bpp k n : Nat} (hk : k < pixelsPerByte bpp * n) : linearOffset bpp k < n :=
  Nat.div_lt_of_lt_mul hk

/-! ### The regions of a layout -/

section Layout

variable {c : Config} (hc : c.wf = true)
include hc

/-- The number of pixels of each format, under every admissible configuration. -/
theorem formatPixels_of_wf (f : Format) : formatPixels c f = formatPixels config f := by
  obtain ⟨_, _, _, _, _, _, hheight, hwide, hnarrow, _, _⟩ := config_wf_values c hc
  cases f <;> simp only [formatPixels, formatWidth, formatHeight, hheight, hwide, hnarrow] <;> rfl

/-- The CLUT region, where there is one, begins at the end of the pixel region (at the printed size
of Mode1 past it) and reaches to the end of the layout (20_memory.md R57 to R61). -/
theorem clutOffset_bounds {f : Format} {off : Nat} (hoff : clutOffset c f = some off) :
    pixelRegionBytes f ≤ off ∧ off + formatClutLen f = formatSize c f := by
  obtain ⟨_, _, _, hmode2, hlin2, hlin4, _⟩ := config_wf_values c hc
  cases f with
  | rawIndexed => cases hoff
  | mode1 =>
    cases hoff
    cases hsize : c.mode1Size <;>
      simp [pixelRegionBytes, formatClutLen, formatSize, mode1SizeBytes, hsize]
  | mode2 => cases hoff; simp [pixelRegionBytes, formatClutLen, formatSize, hmode2]
  | linear2bpp => cases hoff; simp [pixelRegionBytes, formatClutLen, formatSize, hlin2]
  | linear4bpp => cases hoff; simp [pixelRegionBytes, formatClutLen, formatSize, hlin4]

theorem pixelRegionBytes_le_formatSize (f : Format) : pixelRegionBytes f ≤ formatSize c f := by
  cases hoff : clutOffset c f with
  | some off =>
    obtain ⟨hregion, hend⟩ := clutOffset_bounds hc hoff
    omega
  | none =>
    obtain ⟨_, _, hraw, _⟩ := config_wf_values c hc
    cases f with
    | rawIndexed => exact hraw.ge
    | mode1 | mode2 | linear2bpp | linear4bpp => cases hoff

/-- RawIndexed is the longest layout, and BUF_CAP is at least its size. -/
theorem formatSize_le_bufCap (f : Format) : formatSize c f ≤ c.bufCap := by
  obtain ⟨_, _, hraw, hmode2, hlin2, hlin4, _, _, _, _, hcap⟩ := config_wf_values c hc
  cases f with
  | mode1 => cases hsize : c.mode1Size <;> simp only [formatSize, mode1SizeBytes, hsize] <;> omega
  | rawIndexed | mode2 | linear2bpp | linear4bpp => simp only [formatSize]; omega

end Layout

/-! ### What an operation's result holds -/

/-- Keeping the low 7 bits of a value does not raise it, so its bound stays. -/
theorem ofNat_seven_lt {v n : Nat} (h : v < n) : (BitVec.ofNat 7 v).toNat < n := by
  rw [BitVec.toNat_ofNat]
  exact Nat.lt_of_le_of_lt (Nat.mod_le v _) h

/-- Every logical colour an operation writes is below CLUTLEN (10_state.md R32). -/
theorem execPixels_lt (i : Instr) (s : State) :
    ∀ v ∈ execPixels i s, v.toNat < formatClutLen (operationFormat i) := by
  cases i with
  | decRaw => exact fun v _ => v.isLt
  | decM1 | decM2 => exact tabulate_forall_mem _ _ _ fun k _ => ofNat_seven_lt (attrPix_lt _ _ _)
  | decL2 | decL4 => exact tabulate_forall_mem _ _ _ fun k _ => ofNat_seven_lt (linearPix_lt _ _ _)

/-- The CLUT of a result, as the host reads it, is the CLUT the raster was formed with: stored, or
the identity of RawIndexed (45_assembler.md R161, R162). -/
theorem readClut_execResult (i : Instr) (s : State) {j : Nat}
    (hj : j < formatClutLen (operationFormat i)) :
    readClut (execResult i s) j = some (clutAt config (operationFormat i) s j) := by
  cases i with
  | decRaw => exact if_pos hj
  | decM1 | decM2 | decL2 | decL4 => exact clutLoad_getElem? config _ s _ j rfl hj

/-- Each entry of the raster is the palette's colour of the CLUT entry of its logical colour
(45_assembler.md R163). -/
theorem rasterComposed_execResult (i : Instr) (s : State) :
    RasterComposed (execResult i s) (formatPixels config (operationFormat i)) := by
  have hlen := execPixels_length i s
  refine ⟨(clutMap_length config _ s _).trans hlen, fun k hk => ?_⟩
  have hk' : k < (execPixels i s).length := hlen ▸ hk
  have hidx : (execPixels i s)[k]? = some (execPixels i s)[k] := List.getElem?_eq_getElem hk'
  refine ⟨(execPixels i s)[k], _, hidx,
    readClut_execResult i s (execPixels_lt i s _ (List.getElem_mem hk')), ?_⟩
  change (clutMap config (operationFormat i) s (execPixels i s))[k]? = _
  rw [clutMap, List.getElem?_map, hidx, Option.map_some]

/-! ### What leaves BUF and LEN as they were -/

theorem inputKept_of_eq {s t : State} (hlen : t.len = s.len) (hbuf : t.buf = s.buf) :
    InputKept s t :=
  ⟨hlen, hbuf, fun a => by rw [bufRead, bufRead, hbuf]⟩

theorem inputKept_execResult (i : Instr) (s : State) : InputKept s (execResult i s) :=
  inputKept_of_eq rfl rfl

/-! ### A step and its command -/

/-- A step performs the oldest command pending. -/
theorem step_of_pending {s : State} {cmd : HostCommand} {rest : List HostCommand}
    (hp : s.pending = cmd :: rest) : step s = runCommand cmd (s.withPending rest) := by
  rw [step, hp]

theorem runCommand_ne_fault (cmd : HostCommand) (s : State) (r : Fault) :
    runCommand cmd s ≠ .fault r := by
  intro hfault
  cases cmd with
  | reset => cases hfault
  | load b => cases hfault
  | start =>
    rcases startDecode_cases s with ⟨_, _, hnext⟩ | ⟨_, hnext⟩ <;>
      cases hnext.symm.trans hfault
  | read rd =>
    rcases answerRead_cases rd s with ⟨_, _, hnext⟩ | ⟨_, hrefused⟩
    · cases hnext.symm.trans hfault
    · cases hrefused.symm.trans hfault

/-! ### The statements -/

/-- Settles O15: the pixel offsets by their bit fields, the CLUT by the ends of its region. -/
theorem decodeOffsetsInRange : Obligations.DecodeOffsetsInRange := by
  intro c hc
  refine ⟨fun k hk => ?_, fun x y _ hy => ⟨m1Data_lt hy, m1Attr_lt hy⟩,
    fun x y _ hy => ⟨m2Data_lt hy, m2Attr_lt hy⟩, fun k hk => ?_, fun k hk => ?_,
    fun f off j hoff hj => ?_,
    fun f => ⟨pixelRegionBytes_le_formatSize hc f, formatSize_le_bufCap hc f⟩⟩
  · rwa [formatPixels_of_wf hc] at hk
  · rw [formatPixels_of_wf hc] at hk
    exact linearOffset_lt hk
  · rw [formatPixels_of_wf hc] at hk
    exact linearOffset_lt hk
  · obtain ⟨hregion, hend⟩ := clutOffset_bounds hc hoff
    exact ⟨hregion, hend ▸ Nat.add_lt_add_left hj off⟩

/-- Settles O24: an operation that completes gives `execResult`, which writes the result fields
alone. -/
theorem decodeFrame : Obligations.DecodeFrame := by
  intro i s t hexec
  rcases exec_cases i s with ⟨_, hfault⟩ | ⟨_, hnext⟩
  · cases hfault.symm.trans hexec
  · obtain rfl : execResult i s = t := Host.Outcome.next.inj (hnext.symm.trans hexec)
    exact ⟨inputKept_execResult i s, ⟨rfl, rfl⟩, ⟨rfl, rfl, rfl, rfl, rfl, rfl⟩,
      execResult_idx_length i s, execPixels_lt i s, rasterComposed_execResult i s⟩

/-- Settles O44: of the cases of `step_next_cases`, only the two excluded ones write BUF or LEN. -/
theorem bufferWrittenOnlyByLoad : Obligations.BufferWrittenOnlyByLoad := by
  intro s t hstep hload hreset
  rcases step_next_cases hstep with ⟨_, rfl⟩ | ⟨rest, hp, _⟩ | ⟨b, rest, hp, _⟩ |
    ⟨rest, i, _, _, rfl⟩ | ⟨rest, _, _, rfl⟩ | ⟨r, rest, v, _, _, rfl⟩
  · exact inputKept_of_eq rfl rfl
  · exact absurd hp (hreset rest)
  · exact absurd hp (hload b rest)
  · exact inputKept_execResult i (s.withPending rest).discardResult
  · exact inputKept_of_eq rfl rfl
  · exact inputKept_of_eq rfl rfl

/-- Settles O45: no command faults; of them START does not because it runs only the operation LEN
selects, whose layout is then in BUF (`startDecode_cases`). -/
theorem stepNeverFaults : Obligations.StepNeverFaults := by
  intro s r hfault
  cases hp : s.pending with
  | nil => rw [step, hp] at hfault; cases hfault
  | cons cmd rest =>
    rw [step_of_pending hp] at hfault
    exact runCommand_ne_fault cmd _ r hfault

/-- Settles O37: a read that is answered adds its answer, which is the one the block gave with the
read still pending. -/
theorem readsChangeNothing : Obligations.ReadsChangeNothing := by
  intro s t r rest hp hstep
  have hanswer : answerRead r (s.withPending rest) = .next t :=
    (step_of_pending hp).symm.trans hstep
  rcases answerRead_cases r (s.withPending rest) with ⟨v, hv, hnext⟩ | ⟨_, hrefused⟩
  · rw [hostRead_withPending] at hv
    exact ⟨v, hv, (Host.Outcome.next.inj (hnext.symm.trans hanswer)).symm⟩
  · cases hrefused.symm.trans hanswer

end Sys2Proof.Proofs
end

section
/-! PROOFS, family 30_encoding.md. Each format is classified at its own size, so decoder, encoder and
opcode table agree on every length; the palette's intensity indices as sums of single bits. -/

namespace Sys2Proof.Proofs

open Sys2Proof.Machine Sys2Proof.Laws

/-! ### The classifier and the decoder (30_encoding.md R80, R81) -/

theorem formatOperation_operationFormat (i : Instr) : formatOperation (operationFormat i) = i := by
  cases i <;> rfl

theorem mode1SizeBytes_cases (m : Mode1Size) :
    mode1SizeBytes m = 6928 ∨ mode1SizeBytes m = 7120 := by
  cases m with
  | byFormula => exact .inl rfl
  | asPrinted => exact .inr rfl

theorem decodeSelector_of_classify {c : Config} {n : Nat} {f : Format} (h : classify c n = .ok f) :
    decodeSelector c n = .ok (formatOperation f) := by
  rw [decodeSelector, h]

section Selector

variable {c : Config} (hc : c.wf = true)
include hc

/-- The classifier's tests never shadow one another: at a format's own size every earlier test
fails, because the five sizes are different numbers. -/
theorem classify_formatSize (f : Format) : classify c (formatSize c f) = .ok f := by
  obtain ⟨_, _, hraw, hmode2, hlin2, hlin4, _⟩ := config_wf_values c hc
  rcases mode1SizeBytes_cases c.mode1Size with hmode1 | hmode1 <;> cases f <;>
    simp [classify, formatSize, hraw, hmode1, hmode2, hlin2, hlin4]

/-- The hexadecimal column of R81 equals its formula column, for every operation. -/
theorem encode_toNat (i : Instr) : (encode c i).toNat = formatSize c (operationFormat i) := by
  have hstatement : EncodesSize.Statement i := by
    cases i with
    | decRaw => exact EncodesSize.decRaw
    | decM1 => exact EncodesSize.decM1
    | decM2 => exact EncodesSize.decM2
    | decL2 => exact EncodesSize.decL2
    | decL4 => exact EncodesSize.decL4
  obtain ⟨_, hsize⟩ := hstatement
  exact hsize c hc

theorem decodeSelector_encode (i : Instr) : decodeSelector c (encode c i).toNat = .ok i := by
  rw [encode_toNat hc, decodeSelector_of_classify (classify_formatSize hc _),
    formatOperation_operationFormat]

theorem decodeSelector_eq_ok_iff {n : Nat} {i : Instr} :
    decodeSelector c n = .ok i ↔ n = (encode c i).toNat := by
  constructor
  · intro hsel
    rw [encode_toNat hc, decodeSelector_size hsel]
  · rintro rfl
    exact decodeSelector_encode hc i

/-- The decoder recovers the operation from its word, so no two operations share one. -/
theorem encode_injective {i j : Instr} (h : encode c i = encode c j) : i = j := by
  have hi := decodeSelector_encode hc i
  rw [h, decodeSelector_encode hc j] at hi
  exact (Except.ok.inj hi).symm

end Selector

/-! ### The host's view of the decoder -/

theorem decodeTableWord_encode (i : Instr) :
    decodeTableWord 32 (encode config i).toNat = some i := by
  rw [decodeTableWord, Nat.mod_eq_of_lt (encode config i).isLt, decodeSelector_encode rfl]

theorem decodeTableWord_of_unsupported {w : Nat} (hw : w < 2 ^ 32)
    (h : decodeSelector config w = .error (.unsupportedFormat w)) :
    decodeTableWord 32 w = none := by
  rw [decodeTableWord, Nat.mod_eq_of_lt hw, h]

/-! ### The rows of the opcode table -/

/-- The row of an operation: every bit takes part, and the pattern is the operation's word. -/
def fullMaskRow (c : Config) (i : Instr) : OpcodeRow := ⟨i, 0xFFFFFFFF#32, encode c i⟩

/-- The operations in the order of opcode_table.json. -/
def tableOrder : List Instr := [.decRaw, .decM1, .decM2, .decL2, .decL4]

theorem opcodeRows_eq_map (c : Config) : opcodeRows c = tableOrder.map (fullMaskRow c) := rfl

theorem mem_tableOrder (i : Instr) : i ∈ tableOrder := by cases i <;> decide

theorem fullMaskRow_selects_iff (c : Config) (i : Instr) (w : BitVec 32) :
    w &&& (fullMaskRow c i).mask = (fullMaskRow c i).pattern ↔ w = encode c i := by
  have hall : w &&& (fullMaskRow c i).mask = w := BitVec.and_allOnes
  rw [hall]
  rfl

/-- A scan takes the first row that matches; since no two words are equal, it is the only one. -/
theorem scanRows_map_fullMaskRow_iff {c : Config} (hc : c.wf = true) (ops : List Instr)
    (w : BitVec 32) (i : Instr) :
    scanRows (ops.map (fullMaskRow c)) w = some i ↔ i ∈ ops ∧ w = encode c i := by
  induction ops with
  | nil => simp [scanRows]
  | cons op ops ih =>
    have hrow := fullMaskRow_selects_iff c op w
    rw [List.map_cons, scanRows]
    by_cases hw : w = encode c op
    · rw [if_pos (hrow.mpr hw), hw]
      constructor
      · intro hop
        obtain rfl : op = i := Option.some.inj hop
        exact ⟨List.mem_cons_self, rfl⟩
      · rintro ⟨_, hi⟩
        exact congrArg some (encode_injective hc hi)
    · have hne (hi : w = encode c i) : i ≠ op := fun hop => hw (hop ▸ hi)
      rw [if_neg (mt hrow.mp hw), ih, List.mem_cons]
      constructor
      · exact fun ⟨hmem, hi⟩ => ⟨.inr hmem, hi⟩
      · exact fun ⟨hmem, hi⟩ => ⟨hmem.resolve_left (hne hi), hi⟩

theorem scanRows_opcodeRows_iff {c : Config} (hc : c.wf = true) (w : BitVec 32) (i : Instr) :
    scanRows (opcodeRows c) w = some i ↔ w = encode c i := by
  rw [opcodeRows_eq_map, scanRows_map_fullMaskRow_iff hc]
  exact and_iff_right (mem_tableOrder i)

/-! ### The palette's intensity indices by bits (30_encoding.md R87, 40_palette.md R100) -/

/-- A bit masked out at `k` and moved down by `j` has weight `2 ^ (k - j)`. -/
theorem and_two_pow_shiftRight (n : Nat) {j k : Nat} (h : j ≤ k) :
    (n &&& 2 ^ k) >>> j = (n.testBit k).toNat * 2 ^ (k - j) := by
  rw [Nat.and_two_pow, Nat.shiftRight_eq_div_pow, ← Nat.pow_sub_mul_pow 2 h, ← Nat.mul_assoc,
    Nat.mul_div_cancel _ (Nat.two_pow_pos j)]

/-- Bits of different weight are joined by `|||` as by addition. -/
theorem or_weighted_bits (high mid low : Bool) :
    mid.toNat * 2 ||| high.toNat * 4 ||| low.toNat * 1
      = 4 * high.toNat + 2 * mid.toNat + low.toNat := by
  revert high mid low
  decide

section IntensityIndices

variable {w : Nat} (i : BitVec w)

/-- Bit 3, shared by the three components, is the low bit of each index. -/
theorem sharedBit_eq : (i.toNat &&& 0x08) >>> 3 = (i.getLsbD 3).toNat * 1 :=
  and_two_pow_shiftRight i.toNat (j := 3) (k := 3) (by decide)

theorem redIndex_toNat :
    redIndex i.toNat = 4 * (i.getLsbD 5).toNat + 2 * (i.getLsbD 1).toNat + (i.getLsbD 3).toNat := by
  have hmid : i.toNat &&& 0x02 = (i.getLsbD 1).toNat * 2 := Nat.and_two_pow i.toNat 1
  have hhigh : (i.toNat &&& 0x20) >>> 3 = (i.getLsbD 5).toNat * 4 :=
    and_two_pow_shiftRight i.toNat (j := 3) (k := 5) (by decide)
  rw [redIndex, hmid, hhigh, sharedBit_eq, or_weighted_bits]

theorem greenIndex_toNat :
    greenIndex i.toNat
      = 4 * (i.getLsbD 6).toNat + 2 * (i.getLsbD 2).toNat + (i.getLsbD 3).toNat := by
  have hmid : (i.toNat &&& 0x04) >>> 1 = (i.getLsbD 2).toNat * 2 :=
    and_two_pow_shiftRight i.toNat (j := 1) (k := 2) (by decide)
  have hhigh : (i.toNat &&& 0x40) >>> 4 = (i.getLsbD 6).toNat * 4 :=
    and_two_pow_shiftRight i.toNat (j := 4) (k := 6) (by decide)
  rw [greenIndex, hmid, hhigh, sharedBit_eq, or_weighted_bits]

theorem blueIndex_toNat :
    blueIndex i.toNat = 4 * (i.getLsbD 4).toNat + 2 * (i.getLsbD 0).toNat + (i.getLsbD 3).toNat := by
  have hmid : (i.toNat &&& 0x01) <<< 1 = (i.getLsbD 0).toNat * 2 := by
    rw [Nat.shiftLeft_eq]
    exact congrArg (· * 2) ((Nat.and_two_pow i.toNat 0).trans (Nat.mul_one _))
  have hhigh : (i.toNat &&& 0x10) >>> 2 = (i.getLsbD 4).toNat * 4 :=
    and_two_pow_shiftRight i.toNat (j := 2) (k := 4) (by decide)
  rw [blueIndex, hmid, hhigh, sharedBit_eq, or_weighted_bits]

end IntensityIndices

/-! ### The statements -/

/-- Settles O2: a length the decoder answers on is the size of the operation's format, which is the
operation's word. -/
theorem selectsExactlyOnEqualSize : Obligations.SelectsExactlyOnEqualSize :=
  fun _ i hc _ => ⟨decodeSelector_encode hc i, fun _ => decodeSelector_eq_ok_iff hc⟩

/-- Settles O5: either side answers an operation on exactly its word. -/
theorem tableScanAgreesWithClassifier : Obligations.TableScanAgreesWithClassifier := by
  intro c w i hc
  rw [scanRows_opcodeRows_iff hc, decodeWord, decodeSelector_eq_ok_iff hc, BitVec.toNat_inj]

/-- Settles O3: the decoder answers no operation on such a length, and its only error carries the
length. -/
theorem otherSizesUnsupported : Obligations.OtherSizesUnsupported := by
  intro c n hc hother
  cases hsel : decodeSelector c n with
  | ok i => exact absurd ((decodeSelector_eq_ok_iff hc).mp hsel) (hother i)
  | error e => rw [decodeSelector_error hsel]

/-- Settles O1: five of the words are the encodings of the operations, and 7120 is none of them. -/
theorem selectorWordsDecode : Obligations.SelectorWordsDecode := by
  refine ⟨decodeTableWord_encode .decRaw, decodeTableWord_encode .decM1,
    decodeTableWord_encode .decM2, decodeTableWord_encode .decL2, decodeTableWord_encode .decL4, ?_⟩
  have hother : ∀ i, 7120 ≠ (encode config i).toNat := by
    intro i
    cases i <;> decide
  exact decodeTableWord_of_unsupported (by decide) (otherSizesUnsupported config 7120 rfl hother)

/-- Settles O6: the operator formulas select the level at the bit fields' index, which is always
one of the eight. -/
theorem paletteByBitFields : Obligations.PaletteByBitFields := by
  intro c hc
  obtain ⟨_, hlevels, _⟩ := config_wf_values c hc
  refine ⟨hlevels, fun i => ⟨?_, ?_, ?_⟩⟩
  · rw [← redIndex_toNat]
    exact intensity_eq c hc _ (redIndex_lt _)
  · rw [← greenIndex_toNat]
    exact intensity_eq c hc _ (greenIndex_lt _)
  · rw [← blueIndex_toNat]
    exact intensity_eq c hc _ (blueIndex_lt _)

end Sys2Proof.Proofs
end

section
/-! PROOFS, family 40_palette.md. Each intensity index holds three bits of its operand, and the
three indices together hold bits 0 to 6 and no other. -/

namespace Sys2Proof.Proofs

open Sys2Proof.Machine Sys2Proof.Laws

/-! ### The bits an intensity index holds (40_palette.md R100) -/

theorem weightedBits_eq_iff {high mid low high' mid' low' : Bool} :
    4 * high.toNat + 2 * mid.toNat + low.toNat = 4 * high'.toNat + 2 * mid'.toNat + low'.toNat ↔
      high = high' ∧ mid = mid' ∧ low = low' := by
  revert high mid low high' mid' low'
  decide

section IndexBits

variable {v w : Nat} (i : BitVec v) (j : BitVec w)

theorem redIndex_eq_iff :
    redIndex i.toNat = redIndex j.toNat ↔
      i.getLsbD 5 = j.getLsbD 5 ∧ i.getLsbD 1 = j.getLsbD 1 ∧ i.getLsbD 3 = j.getLsbD 3 := by
  rw [redIndex_toNat, redIndex_toNat, weightedBits_eq_iff]

theorem greenIndex_eq_iff :
    greenIndex i.toNat = greenIndex j.toNat ↔
      i.getLsbD 6 = j.getLsbD 6 ∧ i.getLsbD 2 = j.getLsbD 2 ∧ i.getLsbD 3 = j.getLsbD 3 := by
  rw [greenIndex_toNat, greenIndex_toNat, weightedBits_eq_iff]

theorem blueIndex_eq_iff :
    blueIndex i.toNat = blueIndex j.toNat ↔
      i.getLsbD 4 = j.getLsbD 4 ∧ i.getLsbD 0 = j.getLsbD 0 ∧ i.getLsbD 3 = j.getLsbD 3 := by
  rw [blueIndex_toNat, blueIndex_toNat, weightedBits_eq_iff]

end IndexBits

/-- Each of the seven bits stands in one of the three indices, bit 3 in all of them. -/
theorem paletteIndex_eq_of_indices_eq {i j : PaletteIndex}
    (hred : redIndex i.toNat = redIndex j.toNat)
    (hgreen : greenIndex i.toNat = greenIndex j.toNat)
    (hblue : blueIndex i.toNat = blueIndex j.toNat) : i = j := by
  obtain ⟨h5, h1, h3⟩ := (redIndex_eq_iff i j).mp hred
  obtain ⟨h6, h2, _⟩ := (greenIndex_eq_iff i j).mp hgreen
  obtain ⟨h4, h0, _⟩ := (blueIndex_eq_iff i j).mp hblue
  refine BitVec.eq_of_getLsbD_eq fun k hk => ?_
  interval_cases k <;> assumption

/-- The mask 0x7F keeps every bit the palette uses. -/
theorem paletteIndexOfByte_getLsbD (b : Byte) {k : Nat} (hk : k < 7) :
    (paletteIndexOfByte b).getLsbD k = b.getLsbD k := by
  have hmod : (b.toNat % 2 ^ 7).testBit k = b.toNat.testBit k := by
    rw [Nat.testBit_mod_two_pow, decide_eq_true hk, Bool.true_and]
  rw [BitVec.getLsbD, paletteIndexOfByte_toNat]
  exact hmod

/-! ### The levels of INTENSITY (10_state.md R34) -/

section Levels

variable {c : Config} (hc : c.wf = true)
include hc

theorem intensity_mem {n : Nat} (hn : n < 8) : intensity c n ∈ c.intensity :=
  List.mem_of_getElem? (intensity_eq c hc n hn)

theorem intensity_levels_nodup : c.intensity.Nodup := by
  obtain ⟨_, hlevels, _⟩ := config_wf_values c hc
  rw [hlevels]
  decide

/-- INTENSITY has eight different values, so a level determines its index. -/
theorem intensity_inj {m n : Nat} (hm : m < 8) (hn : n < 8)
    (h : intensity c m = intensity c n) : m = n := by
  obtain ⟨_, hlevels, _⟩ := config_wf_values c hc
  have hlength : m < c.intensity.length := by rw [hlevels]; exact hm
  rw [← List.getElem?_inj hlength (intensity_levels_nodup hc), intensity_eq c hc m hm,
    intensity_eq c hc n hn, h]

theorem palRgb_injective {i j : PaletteIndex} (h : palRgb c i = palRgb c j) : i = j := by
  obtain ⟨hr, hg, hb⟩ := Rgb.mk.inj h
  exact paletteIndex_eq_of_indices_eq
    (intensity_inj hc (redIndex_lt _) (redIndex_lt _) hr)
    (intensity_inj hc (greenIndex_lt _) (greenIndex_lt _) hg)
    (intensity_inj hc (blueIndex_lt _) (blueIndex_lt _) hb)

end Levels

/-! ### The statements -/

/-- Settles O7: every index is one of the eight positions of INTENSITY; equal entries have equal
indices, which hold all seven bits. -/
theorem paletteEntriesDistinct : Obligations.PaletteEntriesDistinct :=
  fun _ hc =>
    ⟨fun _ => ⟨intensity_mem hc (redIndex_lt _), intensity_mem hc (greenIndex_lt _),
      intensity_mem hc (blueIndex_lt _)⟩,
    fun _ _ => palRgb_injective hc⟩

/-- Settles O8: the indices hold bits 0 to 6 only, which the mask keeps. -/
theorem paletteIgnoresBitSeven : Obligations.PaletteIgnoresBitSeven := by
  intro b
  have hbit {k : Nat} (hk : k < 7) : b.getLsbD k = (paletteIndexOfByte b).getLsbD k :=
    (paletteIndexOfByte_getLsbD b hk).symm
  refine ⟨?red, ?green, ?blue⟩
  case red =>
    exact (redIndex_eq_iff _ _).mpr ⟨hbit (by decide), hbit (by decide), hbit (by decide)⟩
  case green =>
    exact (greenIndex_eq_iff _ _).mpr ⟨hbit (by decide), hbit (by decide), hbit (by decide)⟩
  case blue =>
    exact (blueIndex_eq_iff _ _).mpr ⟨hbit (by decide), hbit (by decide), hbit (by decide)⟩

end Sys2Proof.Proofs
end

section
/-! PROOFS, family 41_classifier.md. The classifier answers a format on exactly the format's size and
its error on exactly the lengths that are no format's size. -/

namespace Sys2Proof.Proofs

open Sys2Proof.Machine Sys2Proof.Laws

/-! ### What the classifier answers (41_classifier.md R110) -/

theorem operationFormat_formatOperation (f : Format) : operationFormat (formatOperation f) = f := by
  cases f <;> rfl

theorem decodeSelector_of_classify_error {c : Config} {n : Nat} {e : DecodeError}
    (h : classify c n = .error e) : decodeSelector c n = .error e := by
  rw [decodeSelector, h]

/-- A format is answered on no length but its own size, whatever the configuration. -/
theorem eq_formatSize_of_classify {c : Config} {n : Nat} {f : Format} (h : classify c n = .ok f) :
    n = formatSize c f := by
  have hsize := decodeSelector_size (decodeSelector_of_classify h)
  rwa [operationFormat_formatOperation] at hsize

theorem eq_unsupportedFormat_of_classify {c : Config} {n : Nat} {e : DecodeError}
    (h : classify c n = .error e) : e = .unsupportedFormat n :=
  decodeSelector_error (decodeSelector_of_classify_error h)

section Classifier

variable {c : Config} (hc : c.wf = true)
include hc

theorem classify_eq_ok_iff {n : Nat} {f : Format} : classify c n = .ok f ↔ n = formatSize c f := by
  constructor
  · exact eq_formatSize_of_classify
  · rintro rfl
    exact classify_formatSize hc f

theorem classify_eq_error_iff {n : Nat} {e : DecodeError} :
    classify c n = .error e ↔ e = .unsupportedFormat n ∧ ∀ f, n ≠ formatSize c f := by
  constructor
  · intro herr
    refine ⟨eq_unsupportedFormat_of_classify herr, fun f hn => ?_⟩
    cases herr.symm.trans ((classify_eq_ok_iff hc).mpr hn)
  · rintro ⟨rfl, hother⟩
    cases hclass : classify c n with
    | ok f => exact absurd (eq_formatSize_of_classify hclass) (hother f)
    | error e => rw [eq_unsupportedFormat_of_classify hclass]

/-- The classifier recovers the format from its size, so no two formats share one. -/
theorem formatSize_injective {f g : Format} (h : formatSize c f = formatSize c g) : f = g := by
  have hg : classify c (formatSize c f) = .ok g := (classify_eq_ok_iff hc).mpr h
  exact Except.ok.inj ((classify_formatSize hc f).symm.trans hg)

end Classifier

/-! ### The statement -/

/-- Settles O4: the classifier's answers by `formatSize`, whose values an admissible configuration
fixes but for the two of MODE1_SIZE. -/
theorem classifyBySizeAlone : Obligations.ClassifyBySizeAlone := by
  intro c hc
  obtain ⟨_, _, hraw, hmode2, hlin2, hlin4, _⟩ := config_wf_values c hc
  refine ⟨fun n f => ?_, fun _ _ => classify_eq_error_iff hc, fun _ _ => formatSize_injective hc⟩
  rw [classify_eq_ok_iff hc]
  cases f with
  | rawIndexed => rw [formatSize, hraw]
  | mode1 => cases hsize : c.mode1Size <;> rw [formatSize, hsize, mode1SizeBytes]
  | mode2 => rw [formatSize, hmode2]
  | linear2bpp => rw [formatSize, hlin2]
  | linear4bpp => rw [formatSize, hlin4]

end Sys2Proof.Proofs
end

section
/-! PROOFS, family 42_packed_mode1.md. The Mode1 offsets one-to-one on their bit fields, ATTRPIX by
bit fields, and the result of a decode under any admissible configuration that masks high bytes. -/

namespace Sys2Proof.Proofs

open Sys2Proof.Machine Sys2Proof.Safety Sys2Proof.Laws

/-! ### The offsets inside the grid (42_packed_mode1.md R120, R121) -/

section GridOffsets

variable {x y : Nat} (hx : x < 256) (hy : y < 192)
include hx hy

/-- Inside the grid no coordinate is cut by its masks. -/
theorem m1Data_eq_of_lt :
    m1Data x y = 2048 * (y / 64) + 256 * (y % 8) + 32 * (y / 8 % 8) + x / 8 := by
  rw [m1Data_eq]
  omega

theorem m1Attr_eq_of_lt : m1Attr x y = 6144 + 32 * (y / 8) + x / 8 := by
  rw [m1Attr_eq]
  omega

end GridOffsets

/-- The row whose data bytes include offset `a`: the band, and the two 3-bit fields of the offset
put back in the order they have in y. -/
def m1DataRow (a : Nat) : Nat := 64 * (a / 2048) + 8 * (a / 32 % 8) + a / 256 % 8

/-- M1DATA on the pixel whose row and column are given by their fields: the row in the cell and the
cell row in the band change places (R120). -/
theorem m1Data_of_fields {band row cell col : Nat} (hband : band < 3) (hrow : row < 8)
    (hcell : cell < 8) (hcol : col < 32) :
    m1Data (8 * col) (64 * band + 8 * cell + row)
      = 2048 * band + 256 * row + 32 * cell + col := by
  rw [m1Data_eq_of_lt (by omega) (by omega)]
  omega

/-- On an offset given by its fields (band, row in the cell, cell row in the band, column) the
middle two change places back. -/
theorem m1DataRow_of_fields {band row cell col : Nat} (hrow : row < 8) (hcell : cell < 8)
    (hcol : col < 32) :
    m1DataRow (2048 * band + 256 * row + 32 * cell + col) = 64 * band + 8 * cell + row := by
  rw [m1DataRow]
  omega

theorem m1DataRow_lt {a : Nat} (ha : a < 6144) : m1DataRow a < 192 := by
  rw [m1DataRow]
  omega

theorem m1DataRow_m1Data {x y : Nat} (hx : x < 256) (hy : y < 192) :
    m1DataRow (m1Data x y) = y := by
  rw [m1Data_eq_of_lt hx hy,
    m1DataRow_of_fields (Nat.mod_lt _ (by decide)) (Nat.mod_lt _ (by decide)) (by omega)]
  omega

/-- The low five bits of a data offset are the number of its 8-pixel group in the row. -/
theorem m1Data_mod {x y : Nat} (hx : x < 256) (hy : y < 192) : m1Data x y % 32 = x / 8 := by
  rw [m1Data_eq_of_lt hx hy]
  omega

theorem m1Data_m1DataRow {a : Nat} (ha : a < 6144) : m1Data (8 * (a % 32)) (m1DataRow a) = a := by
  rw [m1DataRow, m1Data_of_fields (by omega) (Nat.mod_lt _ (by decide)) (Nat.mod_lt _ (by decide))
    (Nat.mod_lt _ (by decide))]
  omega

/-! ### ATTRPIX by bit fields (30_encoding.md R83, R84, 42_packed_mode1.md R122) -/

/-- A one-bit mask meets a byte exactly where the byte has that bit. -/
theorem and_two_pow_ne_zero_iff (b : Byte) (k : Nat) : b.toNat &&& 2 ^ k ≠ 0 ↔ b.getLsbD k := by
  rw [Nat.and_two_pow, BitVec.getLsbD]
  cases b.toNat.testBit k <;> simp

theorem brightValue_eq (a : Byte) : brightValue a = if a.getLsbD 6 then 8 else 0 :=
  if_congr (and_two_pow_ne_zero_iff a 6) rfl rfl

/-- Column x has bit 7 - x mod 8 of its data byte: the leftmost pixel is the most significant. -/
theorem dataMask_eq (x : Nat) : dataMask x = 2 ^ (7 - x % 8) := by
  rw [dataMask, and_seven, Nat.one_shiftLeft]

theorem colourShift_eq (d : Byte) (x : Nat) :
    colourShift d x = if d.getLsbD (7 - x % 8) then 0 else 3 := by
  rw [colourShift, dataMask_eq]
  exact if_congr (and_two_pow_ne_zero_iff d _) rfl rfl

theorem shiftRight_and_seven (a : Byte) (k : Nat) :
    (a.toNat >>> k) &&& 7 = (a.extractLsb' k 3).toNat := by
  rw [and_seven, BitVec.extractLsb'_toNat]

theorem attrPix_eq_attrColour (a d : Byte) (x : Nat) : attrPix a d x = attrColour a d x := by
  rw [attrPix, attrColour, brightValue_eq, colourShift_eq, shiftRight_and_seven]
  cases d.getLsbD (7 - x % 8) <;> rfl

/-- Bit 7 of the colour byte is in none of the fields BRIGHT, FG and BG. -/
theorem attrColour_xor_bit_seven (a d : Byte) (x : Nat) :
    attrColour (a ^^^ 0x80#8) d x = attrColour a d x := by
  have hbright : (a ^^^ 0x80#8).getLsbD 6 = a.getLsbD 6 := by
    rw [BitVec.getLsbD_xor]
    exact Bool.xor_false _
  have hfg : (a ^^^ 0x80#8).extractLsb' 0 3 = a.extractLsb' 0 3 := by
    rw [BitVec.extractLsb'_xor]
    exact BitVec.xor_zero
  have hbg : (a ^^^ 0x80#8).extractLsb' 3 3 = a.extractLsb' 3 3 := by
    rw [BitVec.extractLsb'_xor]
    exact BitVec.xor_zero
  rw [attrColour, attrColour, hbright, hfg, hbg]

/-- With equal colour fields it does not matter which of them the data bit selects. -/
theorem attrColour_of_equal_fields {a : Byte} (h : a.extractLsb' 0 3 = a.extractLsb' 3 3)
    (d : Byte) (x : Nat) :
    attrColour a d x = (if a.getLsbD 6 then 8 else 0) + (a.extractLsb' 3 3).toNat := by
  rw [attrColour, h, ite_self]

/-! ### The result of a decode under any configuration (45_assembler.md R161 to R165) -/

theorem paletteIndexOfByte_eq_setWidth (b : Byte) : paletteIndexOfByte b = b.setWidth 7 :=
  BitVec.eq_of_toNat_eq (by rw [paletteIndexOfByte_toNat, BitVec.toNat_setWidth])

/-- The state a decode of format `f` gives when it completes with the pixels `px`. -/
def decodeResult (c : Config) (f : Format) (px : List LogicalColour) (s : State) : State :=
  s.withResult c f (clutLoad c f s) px (clutMap c f s px)

/-- With PAL_HI_POLICY = mask a decode completes on every buffer its layout fits in. -/
theorem runDecode_of_mask {c : Config} {f : Format} {s : State} (hmask : c.palHiPolicy = .mask)
    (hlen : formatSize c f ≤ s.len) (px : List LogicalColour) :
    runDecode c f px s = .next (decodeResult c f px s) := by
  rw [runDecode, if_neg (Nat.not_lt.mpr hlen), palHiStop_mask c f s hmask]
  rfl

section DecodeResult

variable {c : Config} {f : Format} {px : List LogicalColour}

theorem formatWidth_of_wf (hc : c.wf = true) (f : Format) :
    formatWidth c f = formatWidth config f := by
  obtain ⟨_, _, _, _, _, _, _, hwide, hnarrow, _⟩ := config_wf_values c hc
  cases f with
  | rawIndexed | linear2bpp => exact hwide
  | mode1 | mode2 | linear4bpp => exact hnarrow

theorem formatHeight_of_wf (hc : c.wf = true) (f : Format) :
    formatHeight c f = formatHeight config f := by
  obtain ⟨_, _, _, _, _, _, hheight, _⟩ := config_wf_values c hc
  cases f <;> exact hheight

theorem doneAs_decodeResult (hc : c.wf = true) (s : State) :
    DoneAs (decodeResult c f px s) f (BitVec.ofNat 10 (formatWidth config f))
      (BitVec.ofNat 8 (formatHeight config f)) (BitVec.ofNat 8 (formatClutLen f)) := by
  rw [← formatWidth_of_wf hc, ← formatHeight_of_wf hc]
  exact ⟨rfl, rfl, rfl, rfl, rfl, rfl⟩

/-- The CLUT of a result, as the host reads it, is the one CLUTMAP uses: stored, or the identity of
RawIndexed. -/
theorem readClut_decodeResult (s : State) {j : Nat} (hj : j < formatClutLen f) :
    readClut (decodeResult c f px s) j = some (clutAt c f s j) := by
  cases f with
  | rawIndexed => exact if_pos hj
  | mode1 | mode2 | linear2bpp | linear4bpp => exact clutLoad_getElem? c _ s _ j rfl hj

theorem rasterComposed_decodeResult (hc : c.wf = true) (s : State)
    (hpx : ∀ v ∈ px, v.toNat < formatClutLen f) :
    RasterComposed (decodeResult c f px s) px.length := by
  refine ⟨clutMap_length c f s px, fun k hk => ?_⟩
  have hidx : px[k]? = some px[k] := List.getElem?_eq_getElem hk
  refine ⟨px[k], _, hidx, readClut_decodeResult s (hpx _ (List.getElem_mem hk)), ?_⟩
  change (clutMap c f s px)[k]? = _
  rw [clutMap, List.getElem?_map, hidx, Option.map_some, palRgb_config c hc]

/-- A result is fixed by its pixels and by the CLUT entries below CLUTLEN. -/
theorem sameOutcome_decodeResult {s u : State} (hpx : ∀ v ∈ px, v.toNat < formatClutLen f)
    (hclut : ∀ j, j < formatClutLen f → clutAt c f s j = clutAt c f u j) :
    SameOutcome (decodeResult c f px s) (decodeResult c f px u) := by
  have hload : clutLoad c f s = clutLoad c f u := by
    unfold clutLoad
    split
    · rfl
    · exact tabulate_congr _ _ _ hclut
  have hmap : clutMap c f s px = clutMap c f u px :=
    List.map_congr_left fun v hv => by rw [hclut _ (hpx v hv)]
  rw [decodeResult, decodeResult, hload, hmap]
  exact ⟨rfl, rfl, rfl, rfl, rfl, rfl, rfl, rfl, rfl⟩

end DecodeResult

/-! ### The Mode1 pixel loop and CLUT (42_packed_mode1.md R123, R124) -/

/-- What the Mode1 pixel loop writes to IDX under a configuration. -/
def mode1Pixels (c : Config) (s : State) : List LogicalColour :=
  tabulate (formatPixels c .mode1) fun k =>
    mode1Pixel s (gridX (formatWidth c .mode1) k) (gridY (formatWidth c .mode1) k)

theorem decodeM1_eq_runDecode (c : Config) (s : State) :
    decodeM1 c s = runDecode c .mode1 (mode1Pixels c s) s := rfl

/-- The Mode1 pixel by the bit fields of its two bytes. -/
theorem mode1Pixel_eq (s : State) (x y : Nat) :
    mode1Pixel s x y
      = BitVec.ofNat 7 (attrColour (bufRead s (m1Attr x y)) (bufRead s (m1Data x y)) x) := by
  rw [mode1Pixel, attrPix_eq_attrColour]

theorem mode1Pixel_toNat_lt (s : State) (x y : Nat) : (mode1Pixel s x y).toNat < 16 :=
  ofNat_seven_lt (attrPix_lt _ _ _)

/-- The Mode1 pixel region ends at 6912, whatever MODE1_SIZE is. -/
theorem mode1Pixel_congr {s u : State} (h : ∀ a, a < 6912 → bufRead s a = bufRead u a) (x : Nat)
    {y : Nat} (hy : y < 192) : mode1Pixel s x y = mode1Pixel u x y := by
  rw [mode1Pixel, mode1Pixel, h _ (m1Attr_lt hy), h _ (m1Data_lt hy)]

section Mode1

variable {c : Config}

theorem mode1Pixels_toNat_lt (s : State) :
    ∀ v ∈ mode1Pixels c s, v.toNat < formatClutLen .mode1 :=
  tabulate_forall_mem _ _ _ fun _ _ => mode1Pixel_toNat_lt _ _ _

theorem decodeM1_of_mask {s : State} (hmask : c.palHiPolicy = .mask)
    (hlen : formatSize c .mode1 ≤ s.len) :
    decodeM1 c s = .next (decodeResult c .mode1 (mode1Pixels c s) s) :=
  (decodeM1_eq_runDecode c s).trans (runDecode_of_mask hmask hlen _)

/-- The Mode1 CLUT is the last 16 bytes of the layout (45_assembler.md R160). -/
theorem clutAt_mode1 (s : State) (j : Nat) :
    clutAt c .mode1 s j = (bufRead s (formatSize c .mode1 - 16 + j)).setWidth 7 :=
  paletteIndexOfByte_eq_setWidth _

variable (hc : c.wf = true)
include hc

theorem mode1Pixels_length (s : State) : (mode1Pixels c s).length = 49152 := by
  rw [mode1Pixels, tabulate_length, formatPixels_of_wf hc]
  rfl

/-- The entry at `y * 256 + x` is the pixel (x, y): the grid is row-major. -/
theorem mode1Pixels_getElem? (s : State) {x y : Nat} (hx : x < 256) (hy : y < 192) :
    (mode1Pixels c s)[y * 256 + x]? = some (mode1Pixel s x y) := by
  have hwidth : formatWidth c .mode1 = 256 := formatWidth_of_wf hc .mode1
  have hpixels : formatPixels c .mode1 = 256 * 192 := formatPixels_of_wf hc .mode1
  have hcol : gridX 256 (y * 256 + x) = x := by rw [gridX]; omega
  have hrow : gridY 256 (y * 256 + x) = y := by rw [gridY]; omega
  have hpos : y * 256 + x < formatPixels c .mode1 := hpixels ▸ gridPos_lt hx hy
  rw [mode1Pixels, tabulate_getElem? _ _ _ hpos, hwidth, hcol, hrow]

theorem mode1Pixels_congr {s u : State} (h : ∀ a, a < 6912 → bufRead s a = bufRead u a) :
    mode1Pixels c s = mode1Pixels c u := by
  refine tabulate_congr _ _ _ fun k hk => mode1Pixel_congr h _ ?_
  have hwidth : formatWidth c .mode1 = 256 := formatWidth_of_wf hc .mode1
  have hpixels : formatPixels c .mode1 = 256 * 192 := formatPixels_of_wf hc .mode1
  rw [hwidth]
  exact Nat.div_lt_of_lt_mul (hpixels ▸ hk)

/-- Two buffers that agree on the pixel region and on the CLUT give one outcome: what lies between
the two influences nothing (42_packed_mode1.md R124, 20_memory.md R58). -/
theorem sameOutcome_mode1 {s u : State} (hpixel : ∀ a, a < 6912 → bufRead s a = bufRead u a)
    (hclut : ∀ j, j < 16 → bufRead s (formatSize c .mode1 - 16 + j)
      = bufRead u (formatSize c .mode1 - 16 + j)) :
    SameOutcome (decodeResult c .mode1 (mode1Pixels c s) s)
      (decodeResult c .mode1 (mode1Pixels c u) u) := by
  rw [mode1Pixels_congr hc hpixel]
  refine sameOutcome_decodeResult (mode1Pixels_toNat_lt u) fun j hj => ?_
  rw [clutAt_mode1, clutAt_mode1, hclut j hj]

end Mode1

/-! ### The statements -/

/-- Settles O10: `m1DataRow` and the low five bits of the offset invert M1DATA. -/
theorem mode1DataInterleaved : Obligations.Mode1DataInterleaved := by
  refine ⟨fun x y hx hy => ⟨m1Data_eq_of_lt hx hy, ?_⟩, fun a ha => ?_⟩
  · rw [m1Data_eq_of_lt hx hy]
    omega
  · have hcolumn : 8 * (a % 32) < 256 := by omega
    refine ⟨8 * (a % 32), m1DataRow a, hcolumn, m1DataRow_lt ha, m1Data_m1DataRow ha, ?_⟩
    rintro x' y' hx' hy' rfl
    rw [m1Data_mod hx' hy', m1DataRow_m1Data hx' hy']
    exact ⟨(Nat.mul_div_cancel_left _ (by decide)).symm, rfl⟩

/-- Settles O11: x div 8 is below 32, so 32·(y div 8) + x div 8 determines both of its terms. -/
theorem mode1AttrPerCell : Obligations.Mode1AttrPerCell := by
  intro x y x' y' hx hy hx' hy'
  rw [m1Attr_eq_of_lt hx hy, m1Attr_eq_of_lt hx' hy']
  omega

/-- Settles O13, through the bit-field form `attrColour`. -/
theorem attrPixSelectsField : Obligations.AttrPixSelectsField := by
  intro a d x
  refine ⟨attrPix_eq_attrColour a d x, attrPix_lt a d x, ?_, fun hfields d' => ?_⟩
  · rw [attrPix_eq_attrColour, attrPix_eq_attrColour, attrColour_xor_bit_seven]
  · rw [attrPix_eq_attrColour, attrPix_eq_attrColour, attrColour_of_equal_fields hfields,
      attrColour_of_equal_fields hfields]

/-- Settles O18: LEN is the size of the layout, so the decode gives `decodeResult`; a second buffer
enters it through the pixel region and the CLUT alone. -/
theorem mode1DecodeAtEitherSize : Obligations.Mode1DecodeAtEitherSize := by
  intro c s hc hmask hlen
  have hsize : s.len = formatSize c .mode1 := by
    rw [hlen, formatSize]
    cases c.mode1Size <;> rfl
  have hregions : 6912 + 16 ≤ s.len := by
    rw [hlen]
    cases c.mode1Size <;> decide
  have hraster := rasterComposed_decodeResult hc s (mode1Pixels_toNat_lt (c := c) s)
  rw [mode1Pixels_length hc] at hraster
  refine ⟨_, decodeM1_of_mask hmask hsize.ge, doneAs_decodeResult hc s, mode1Pixels_length hc s,
    fun x y hx hy => ?_, clutLoad_length c .mode1 s, fun j hj => ?_, hraster,
    inputKept_of_eq rfl rfl, ⟨rfl, rfl⟩, fun s' t' hlen' hbytes hdecode => ?_⟩
  · rw [← mode1Pixel_eq]
    exact mode1Pixels_getElem? hc s hx hy
  · rw [hsize, ← paletteIndexOfByte_eq_setWidth]
    exact clutLoad_getElem? c .mode1 s _ j rfl hj
  · have hsize' : s'.len = formatSize c .mode1 := hlen'.trans hsize
    obtain rfl : decodeResult c .mode1 (mode1Pixels c s') s' = t' :=
      Host.Outcome.next.inj ((decodeM1_of_mask hmask hsize'.ge).symm.trans hdecode)
    refine sameOutcome_mode1 hc (fun a ha => (hbytes a (by omega) (.inl ha)).symm) fun j hj => ?_
    rw [← hsize]
    exact (hbytes _ (by omega) (.inr (Nat.le_add_right _ j))).symm

/-- Settles O17: this machine's configuration masks high bytes and takes the size 6928. -/
theorem decM1Result : Obligations.DecM1Result := by
  intro s hlen
  obtain ⟨t, hdecode, hdone, hidxLen, hidx, hclutLen, hclut, hraster, hinput, hhost, _⟩ :=
    mode1DecodeAtEitherSize config s rfl rfl hlen
  rw [hlen] at hclut
  refine ⟨t, hdecode, hdone, hidxLen, fun x y hx hy => ?_, hclutLen, hclut, hraster, hinput,
    hhost⟩
  rw [← m1Attr_eq_of_lt hx hy, ← m1Data_eq_of_lt hx hy]
  exact hidx x y hx hy

end Sys2Proof.Proofs
end

section
/-! PROOFS, family 43_packed_mode2.md. The Mode2 offsets in division and remainder, one-to-one on
(x div 8, y); the pixels of DEC.M2 by the bytes at those offsets. -/

namespace Sys2Proof.Proofs

open Sys2Proof.Machine Sys2Proof.Safety Sys2Proof.Laws

/-! ### The offsets inside the grid (43_packed_mode2.md R135, R136) -/

section GridOffsets

variable {x : Nat} (hx : x < 256) (y : Nat)
include hx

/-- Inside the grid the mask of R135 cuts nothing off the column. -/
theorem m2Data_eq_of_lt : m2Data x y = 32 * y + x / 8 := by
  rw [m2Data_eq, Nat.mod_eq_of_lt (Nat.div_lt_of_lt_mul hx)]

theorem m2Attr_eq_of_lt : m2Attr x y = 6144 + 32 * y + x / 8 := by
  rw [m2Attr, m2Data_eq_of_lt hx]
  omega

/-- The data bytes end where the attribute bytes begin. -/
theorem m2Data_lt_attrBytes (hy : y < 192) : m2Data x y < 6144 := by
  rw [m2Data_eq_of_lt hx]
  omega

/-- The low five bits of a data offset are the number of its 8-pixel group in the row. -/
theorem m2Data_mod : m2Data x y % 32 = x / 8 := by
  rw [m2Data_eq_of_lt hx]
  omega

/-- The bits above them are the row. -/
theorem m2Data_div : m2Data x y / 32 = y := by
  rw [m2Data_eq_of_lt hx]
  omega

end GridOffsets

/-- Each offset is the data byte of the 8-pixel group its two fields name. -/
theorem m2Data_of_fields (a : Nat) : m2Data (8 * (a % 32)) (a / 32) = a := by
  rw [m2Data_eq_of_lt (by omega)]
  omega

/-! ### The position of a pair in a grid (00_scope.md R13) -/

theorem gridX_gridPos {w x : Nat} (y : Nat) (hx : x < w) : gridX w (gridPos w x y) = x := by
  rw [gridX, gridPos, Nat.mul_add_mod_self_right, Nat.mod_eq_of_lt hx]

theorem gridY_gridPos {w x : Nat} (y : Nat) (hx : x < w) : gridY w (gridPos w x y) = y := by
  rw [gridY, gridPos, Nat.mul_comm, Nat.mul_add_div (Nat.zero_lt_of_lt hx), Nat.div_eq_of_lt hx,
    Nat.add_zero]

/-! ### The Mode2 pixel loop and CLUT (43_packed_mode2.md R137) -/

/-- The Mode2 pixel by the bit fields of its two bytes. -/
theorem mode2Pixel_eq (s : State) {x : Nat} (hx : x < 256) (y : Nat) :
    mode2Pixel s x y = BitVec.ofNat 7 (attrColour (bufRead s (6144 + 32 * y + x / 8))
      (bufRead s (32 * y + x / 8)) x) := by
  rw [mode2Pixel, attrPix_eq_attrColour, m2Attr_eq_of_lt hx, m2Data_eq_of_lt hx]

/-- The loop of DEC.M2 is row-major: the entry at `y * 256 + x` is the pixel (x, y). -/
theorem execPixels_decM2_getElem? (s : State) {x y : Nat} (hx : x < 256) (hy : y < 192) :
    (execPixels .decM2 s)[y * 256 + x]? = some (mode2Pixel s x y) := by
  have hwidth : formatWidth config .mode2 = 256 := rfl
  have hpos : gridPos 256 x y < formatPixels config .mode2 := gridPos_lt hx hy
  change (execPixels .decM2 s)[gridPos 256 x y]? = _
  rw [execPixels, tabulate_getElem? _ _ _ hpos, hwidth, gridX_gridPos y hx, gridY_gridPos y hx]

/-- The Mode2 CLUT is the last 16 bytes of the layout (45_assembler.md R160, R161). -/
theorem clutLoad_mode2_getElem? (s : State) {j : Nat} (hj : j < 16) :
    (clutLoad config .mode2 s)[j]? = some ((bufRead s (12288 + j)).setWidth 7) := by
  rw [← paletteIndexOfByte_eq_setWidth]
  exact clutLoad_getElem? config .mode2 s 12288 j rfl hj

/-! ### The statements -/

/-- Settles O12: the low five bits of an offset and the bits above them invert M2DATA. -/
theorem mode2OffsetsLinear : Obligations.Mode2OffsetsLinear := by
  refine ⟨fun x y hx hy => ?_, fun a ha => ?_⟩
  · exact ⟨m2Data_eq_of_lt hx y, m2Data_lt_attrBytes hx y hy, rfl,
      Nat.le_of_lt_succ (m2Attr_lt hy)⟩
  · have hcolumn : 8 * (a % 32) < 256 := by omega
    refine ⟨8 * (a % 32), a / 32, hcolumn, Nat.div_lt_of_lt_mul ha, m2Data_of_fields a, ?_⟩
    rintro x' y' hx' _ rfl
    rw [m2Data_mod hx', m2Data_div hx']
    exact ⟨(Nat.mul_div_cancel_left _ (by decide)).symm, rfl⟩

/-- Settles O19: LEN selects DEC.M2, so it completes with `execResult`. -/
theorem decM2Result : Obligations.DecM2Result := by
  intro s hlen
  have hsel : decodeSelector config s.len = .ok .decM2 := by rw [hlen]; rfl
  refine ⟨execResult .decM2 s, exec_of_selected hsel, doneAs_decodeResult rfl s,
    execResult_idx_length .decM2 s, fun x y hx hy => ?_, clutLoad_length config .mode2 s,
    fun j hj => clutLoad_mode2_getElem? s hj, rasterComposed_execResult .decM2 s,
    inputKept_execResult .decM2 s, ⟨rfl, rfl⟩⟩
  rw [← mode2Pixel_eq s hx]
  exact execPixels_decM2_getElem? s hx hy

end Sys2Proof.Proofs
end

section
/-! PROOFS, family 44_linear.md. UNPACK by the bit fields of its byte, and the pixel loop of both
depths as these fields taken byte by byte; from that the results of DEC.L2 and DEC.L4, the
concatenation of the UNPACK lists, and the byte put together again from its fields. -/

namespace Sys2Proof.Proofs

open Sys2Proof.Machine Sys2Proof.Safety Sys2Proof.Laws

/-! ### The fields of a linear byte (30_encoding.md R85, 44_linear.md R145) -/

theorem linearField_eq_extract (n : Byte) (bpp i : Nat) :
    linearField n bpp i = (n.extractLsb' (bpp * i) bpp).toNat := by
  rw [linearField, Nat.one_shiftLeft, Nat.and_two_pow_sub_one_eq_mod, BitVec.extractLsb'_toNat]

/-- Sub-pixel `j` of a byte, 0 the leftmost: the field with `j` fields above it (R146). -/
def subPixel (n : Byte) (bpp j : Nat) : BitVec bpp :=
  n.extractLsb' (bpp * (pixelsPerByte bpp - 1 - j)) bpp

/-- UNPACK lists the sub-pixels from the leftmost on. -/
theorem unpack_eq_map_subPixel (n : Byte) (bpp : Nat) :
    unpack n bpp = (List.range (pixelsPerByte bpp)).map fun j => (subPixel n bpp j).toNat := by
  refine List.ext_getElem (by simp [unpack_length]) fun j _ _ => ?_
  simp only [unpack, List.getElem_map, List.getElem_reverse, List.getElem_range, List.length_range,
    linearField_eq_extract, subPixel]

/-- UNPACK of depth 2 loses no bit: the byte is the sum of its fields, each at its place (R149). -/
theorem toNat_eq_of_two_bit_fields (n : Byte) :
    n.toNat = (n.extractLsb' 6 2).toNat <<< 6 + (n.extractLsb' 4 2).toNat <<< 4
      + (n.extractLsb' 2 2).toNat <<< 2 + (n.extractLsb' 0 2).toNat := by
  have hbyte := n.isLt
  simp only [BitVec.extractLsb'_toNat, Nat.shiftRight_eq_div_pow, Nat.shiftLeft_eq]
  omega

/-- The same for depth 4. -/
theorem toNat_eq_of_four_bit_fields (n : Byte) :
    n.toNat = (n.extractLsb' 4 4).toNat <<< 4 + (n.extractLsb' 0 4).toNat := by
  have hbyte := n.isLt
  simp only [BitVec.extractLsb'_toNat, Nat.shiftRight_eq_div_pow, Nat.shiftLeft_eq]
  omega

/-! ### The pixel loop, byte by byte (44_linear.md R146) -/

/-- The first `m * n` positions are `n` runs of `m` consecutive ones. -/
theorem range_mul_eq_flatMap (m n : Nat) :
    List.range (m * n) = (List.range n).flatMap fun a => (List.range m).map (m * a + ·) := by
  induction n with
  | zero => rfl
  | succ n ih =>
    rw [Nat.mul_succ, List.range_add, ih, List.range_succ, List.flatMap_append,
      List.flatMap_singleton]

theorem tabulate_eq_map_range {α : Type} (n : Nat) (f : Nat → α) :
    tabulate n f = (List.range n).map f := by
  refine List.ext_getElem (by simp) fun k hk _ => Option.some.inj ?_
  rw [tabulate_length] at hk
  rw [← List.getElem?_eq_getElem, tabulate_getElem? n f k hk, List.getElem_map,
    List.getElem_range]

/-- Position `PPB * a + j` is sub-pixel `j` of the byte at `a`. -/
theorem linearPixel_of_fields (s : State) {bpp j : Nat} (a : Nat) (hj : j < pixelsPerByte bpp) :
    linearPixel s bpp (pixelsPerByte bpp * a + j) = (subPixel (bufRead s a) bpp j).setWidth 7 := by
  have hbyte : linearOffset bpp (pixelsPerByte bpp * a + j) = a := by
    rw [linearOffset, Nat.mul_add_div (Nat.zero_lt_of_lt hj), Nat.div_eq_of_lt hj, Nat.add_zero]
  rw [linearPixel, hbyte, linearPix, Nat.mul_add_mod, Nat.mod_eq_of_lt hj,
    linearField_eq_extract, BitVec.ofNat_toNat, subPixel]

/-- The pixels of a region of `n` bytes are the bytes' UNPACK lists, one after the other. -/
theorem linearPixels_eq_flatMap_unpack (s : State) (bpp n : Nat) :
    tabulate (pixelsPerByte bpp * n) (linearPixel s bpp) =
      (List.range n).flatMap fun a => (unpack (bufRead s a) bpp).map (BitVec.ofNat 7) := by
  rw [tabulate_eq_map_range, range_mul_eq_flatMap, List.map_flatMap]
  refine List.flatMap_congr fun a _ => ?_
  rw [unpack_eq_map_subPixel, List.map_map, List.map_map]
  refine List.map_congr_left fun j hj => ?_
  rw [Function.comp_apply, Function.comp_apply, BitVec.ofNat_toNat]
  exact linearPixel_of_fields s a (List.mem_range.mp hj)

theorem linearPixels_getElem? (s : State) {bpp n a j : Nat} (ha : a < n)
    (hj : j < pixelsPerByte bpp) :
    (tabulate (pixelsPerByte bpp * n) (linearPixel s bpp))[pixelsPerByte bpp * a + j]? =
      some ((subPixel (bufRead s a) bpp j).setWidth 7) := by
  have hpos : pixelsPerByte bpp * a + j < pixelsPerByte bpp * n := by
    rw [Nat.mul_comm _ a]
    exact gridPos_lt hj ha
  rw [tabulate_getElem? _ _ _ hpos, linearPixel_of_fields s a hj]

/-! ### DEC.L2 and DEC.L4 (44_linear.md R147, R148) -/

theorem eq_execResult_of_exec {i : Instr} {s t : State} (h : exec i s = .next t) :
    t = execResult i s := by
  rw [exec_eq_runDecode] at h
  obtain ⟨_, _, hresult⟩ := runDecode_next h
  exact hresult

theorem execPixels_decL2_eq (s : State) :
    execPixels .decL2 s = tabulate (pixelsPerByte 2 * 24576) (linearPixel s 2) := rfl

theorem execPixels_decL4_eq (s : State) :
    execPixels .decL4 s = tabulate (pixelsPerByte 4 * 24576) (linearPixel s 4) := rfl

section PixelEntries

variable (s : State) {a j : Nat} (ha : a < 24576)
include ha

theorem execPixels_decL2_getElem? (hj : j < 4) :
    (execPixels .decL2 s)[4 * a + j]? =
      some (((bufRead s a).extractLsb' (6 - 2 * j) 2).setWidth 7) := by
  have hfield : 2 * (pixelsPerByte 2 - 1 - j) = 6 - 2 * j := Nat.mul_sub 2 3 j
  rw [execPixels_decL2_eq, ← hfield]
  exact linearPixels_getElem? s ha hj

theorem execPixels_decL4_getElem? (hj : j < 2) :
    (execPixels .decL4 s)[2 * a + j]? =
      some (((bufRead s a).extractLsb' (4 - 4 * j) 4).setWidth 7) := by
  have hfield : 4 * (pixelsPerByte 4 - 1 - j) = 4 - 4 * j := Nat.mul_sub 4 1 j
  rw [execPixels_decL4_eq, ← hfield]
  exact linearPixels_getElem? s ha hj

end PixelEntries

/-- Both linear formats have their CLUT after the 24576 bytes of the pixel region
(45_assembler.md R160, R161). -/
theorem clutLoad_linear_getElem? (f : Format) (s : State) {j : Nat}
    (hoff : clutOffset config f = some 24576) (hj : j < formatClutLen f) :
    (clutLoad config f s)[j]? = some ((bufRead s (24576 + j)).setWidth 7) := by
  rw [← paletteIndexOfByte_eq_setWidth]
  exact clutLoad_getElem? config f s 24576 j hoff hj

/-! ### The statements -/

/-- Settles O20: LEN selects DEC.L2, so it completes with `execResult`. -/
theorem decL2Result : Obligations.DecL2Result := by
  intro s hlen
  have hsel : decodeSelector config s.len = .ok .decL2 := by rw [hlen]; rfl
  exact ⟨execResult .decL2 s, exec_of_selected hsel, doneAs_decodeResult rfl s,
    execResult_idx_length .decL2 s, fun a j ha hj => execPixels_decL2_getElem? s ha hj,
    clutLoad_length config .linear2bpp s, fun j hj => clutLoad_linear_getElem? .linear2bpp s rfl hj,
    rasterComposed_execResult .decL2 s, inputKept_execResult .decL2 s, ⟨rfl, rfl⟩⟩

/-- Settles O21: LEN selects DEC.L4, so it completes with `execResult`. -/
theorem decL4Result : Obligations.DecL4Result := by
  intro s hlen
  have hsel : decodeSelector config s.len = .ok .decL4 := by rw [hlen]; rfl
  exact ⟨execResult .decL4 s, exec_of_selected hsel, doneAs_decodeResult rfl s,
    execResult_idx_length .decL4 s, fun a j ha hj => execPixels_decL4_getElem? s ha hj,
    clutLoad_length config .linear4bpp s, fun j hj => clutLoad_linear_getElem? .linear4bpp s rfl hj,
    rasterComposed_execResult .decL4 s, inputKept_execResult .decL4 s, ⟨rfl, rfl⟩⟩

/-- Settles O22: the pixel loop of either depth runs over the sub-pixels of 24576 bytes. -/
theorem linearPixelsAreConcatenation : Obligations.LinearPixelsAreConcatenation := by
  refine fun s t => ⟨fun hexec => ?_, fun hexec => ?_⟩
  · rw [eq_execResult_of_exec hexec]
    exact linearPixels_eq_flatMap_unpack s 2 24576
  · rw [eq_execResult_of_exec hexec]
    exact linearPixels_eq_flatMap_unpack s 4 24576

/-- Settles O23: a pixel's 7 bits hold the whole of its field, and the fields make up the byte. -/
theorem pixelRegionRecovered : Obligations.PixelRegionRecovered := by
  refine fun s t => ⟨fun hexec a ha => ?_, fun hexec a ha => ?_⟩
  · rw [eq_execResult_of_exec hexec]
    have hpixel (j : Nat) (hj : j < 4) := execPixels_decL2_getElem? s ha hj
    refine ⟨_, _, _, _, hpixel 0 (by decide), hpixel 1 (by decide), hpixel 2 (by decide),
      hpixel 3 (by decide), ?_⟩
    simp only [BitVec.toNat_setWidth_of_le (show 2 ≤ 7 by decide)]
    exact toNat_eq_of_two_bit_fields (bufRead s a)
  · rw [eq_execResult_of_exec hexec]
    have hpixel (j : Nat) (hj : j < 2) := execPixels_decL4_getElem? s ha hj
    refine ⟨_, _, hpixel 0 (by decide), hpixel 1 (by decide), ?_⟩
    simp only [BitVec.toNat_setWidth_of_le (show 4 ≤ 7 by decide)]
    exact toNat_eq_of_four_bit_fields (bufRead s a)

/-- Settles O14: `subPixel` at each position of either depth is the field written out. -/
theorem unpackMostSignificantFirst : Obligations.UnpackMostSignificantFirst :=
  fun n => ⟨unpack_eq_map_subPixel n 4, unpack_eq_map_subPixel n 2⟩

end Sys2Proof.Proofs
end

section
/-! PROOFS, family 45_assembler.md. The raster of RawIndexed; the result as the host reads it; the
outcome of a START as a function of LEN and the bytes below it; and the result of a decode in terms
of the file the host loaded. -/

namespace Sys2Proof.Proofs

open Sys2Proof.Machine Sys2Proof.Safety Sys2Proof.Laws

/-! ### DEC.RAW (45_assembler.md R162, R166) -/

theorem ofNat_toNat_same {w : Nat} (v : BitVec w) : BitVec.ofNat w v.toNat = v := by
  rw [BitVec.ofNat_toNat, BitVec.setWidth_eq]

/-- The identity CLUT makes the raster the palette of the pixels. -/
theorem clutMap_rawIndexed (c : Config) (s : State) (px : List LogicalColour) :
    clutMap c .rawIndexed s px = px.map (palRgb c) :=
  List.map_congr_left fun v _ => congrArg (palRgb c) (ofNat_toNat_same v)

theorem rawPix_eq (s : State) (k : Nat) : rawPix s k = (bufRead s k).setWidth 7 :=
  paletteIndexOfByte_eq_setWidth _

theorem execPixels_decRaw_getElem? (s : State) {k : Nat} (hk : k < 98304) :
    (execPixels .decRaw s)[k]? = some ((bufRead s k).setWidth 7) := by
  rw [← rawPix_eq]
  exact tabulate_getElem? _ (rawPix s) k hk

/-- The raster of a RawIndexed result, without its CLUT. -/
theorem execResult_decRaw_rgb (s : State) :
    (execResult .decRaw s).rgb = (execPixels .decRaw s).map (palRgb config) :=
  clutMap_rawIndexed config s _

/-! ### The result as the host reads it (10_state.md R32, R33) -/

theorem status_done_of_fmt {s : State} {f : Format} (hinv : Inv s) (hf : s.fmt = some f) :
    s.status = .done := by
  by_contra hst
  obtain ⟨hnone, _⟩ := noResult_of_not_done hinv hst
  cases hnone.symm.trans hf

/-- An invariant state whose FMT holds a value is the result of the operation of that format. -/
theorem execResult_eq_of_fmt {s : State} {f : Format} (hinv : Inv s) (hf : s.fmt = some f) :
    ∃ i, operationFormat i = f ∧ execResult i s = s := by
  obtain ⟨i, _, hres⟩ := execResult_eq_of_done hinv (status_done_of_fmt hinv hf)
  have hfmt : (execResult i s).fmt = some (operationFormat i) := rfl
  rw [hres, hf] at hfmt
  exact ⟨i, (Option.some.inj hfmt).symm, hres⟩

section ReadsInDone

variable (c : Config) {s : State} (hst : s.status = .done)
include hst

theorem hostRead_idx_of_done {k : Nat} {v : LogicalColour} (h : s.idx[k]? = some v) :
    hostRead c (.idx k) s = some (.idxEntry v) := by
  rw [hostRead, whenDone_of_done hst, h, Option.map_some]

theorem hostRead_rgb_of_done {k : Nat} {t : Rgb} (h : s.rgb[k]? = some t) :
    hostRead c (.rgb k) s = some (.colour (rgbPort t)) := by
  rw [hostRead, whenDone_of_done hst, h, Option.map_some]

theorem hostRead_clut_of_done {j : Nat} {p : PaletteIndex} (h : readClut s j = some p) :
    hostRead c (.clut j) s = some (.clutEntry p) := by
  rw [hostRead, whenDone_of_done hst, h, Option.map_some]

end ReadsInDone

/-- Every PaletteIndex names one of the 128 entries of PAL, readable in every state. -/
theorem hostRead_pal (s : State) (p : PaletteIndex) :
    hostRead config (.pal p.toNat) s = some (.colour (rgbPort (palRgb config p))) := by
  have hp : p.toNat < config.palEntries := p.isLt
  rw [hostRead, if_pos hp, ofNat_toNat_same]

/-! ### A decode reads its layout alone (45_assembler.md R170) -/

/-- The Mode2 pixel region holds every byte a pixel inside the grid is formed from. -/
theorem mode2Pixel_congr {s u : State}
    (h : ∀ a, a < pixelRegionBytes .mode2 → bufRead s a = bufRead u a) (x : Nat) {y : Nat}
    (hy : y < 192) : mode2Pixel s x y = mode2Pixel u x y := by
  rw [mode2Pixel, mode2Pixel, h _ (m2Attr_lt hy), h _ (m2Data_lt hy)]

theorem linearPixel_congr {s u : State} {bpp k n : Nat}
    (h : ∀ a, a < n → bufRead s a = bufRead u a) (hk : k < pixelsPerByte bpp * n) :
    linearPixel s bpp k = linearPixel u bpp k := by
  rw [linearPixel, linearPixel, h _ (linearOffset_lt hk)]

/-- What a pixel loop writes depends on the pixel region alone. -/
theorem execPixels_congr_of_pixelRegion {i : Instr} {s u : State}
    (h : ∀ a, a < pixelRegionBytes (operationFormat i) → bufRead s a = bufRead u a) :
    execPixels i s = execPixels i u := by
  cases i with
  | decRaw => exact tabulate_congr _ _ _ fun k hk => by rw [rawPix, rawPix, h k hk]
  | decM1 => exact mode1Pixels_congr (c := config) rfl h
  | decM2 =>
    exact tabulate_congr _ _ _ fun k hk => mode2Pixel_congr h _ (Nat.div_lt_of_lt_mul hk)
  | decL2 | decL4 => exact tabulate_congr _ _ _ fun k hk => linearPixel_congr h hk

/-- The CLUT entries below CLUTLEN come from bytes of the layout, or from none. -/
theorem clutAt_congr_of_layout {c : Config} (hc : c.wf = true) {f : Format} {s u : State} {j : Nat}
    (h : ∀ a, a < formatSize c f → bufRead s a = bufRead u a) (hj : j < formatClutLen f) :
    clutAt c f s j = clutAt c f u j := by
  unfold clutAt
  cases hoff : clutOffset c f with
  | none => rfl
  | some off =>
    obtain ⟨_, hend⟩ := clutOffset_bounds hc hoff
    exact congrArg paletteIndexOfByte (h (off + j) (by omega))

theorem sameOutcome_execResult {i : Instr} {s u : State}
    (h : ∀ a, a < formatSize config (operationFormat i) → bufRead s a = bufRead u a) :
    SameOutcome (execResult i s) (execResult i u) := by
  have hregion := pixelRegionBytes_le_formatSize (c := config) rfl (operationFormat i)
  have hpixels : execPixels i s = execPixels i u :=
    execPixels_congr_of_pixelRegion fun a ha => h a (Nat.lt_of_lt_of_le ha hregion)
  rw [execResult, hpixels]
  exact sameOutcome_decodeResult (execPixels_lt i u) fun j hj => clutAt_congr_of_layout rfl h hj

/-- The error depends on the length alone: nothing else it leaves holds a value. -/
theorem sameOutcome_takeUnsupportedFormat (n : Nat) (s u : State) :
    SameOutcome (takeUnsupportedFormat n s) (takeUnsupportedFormat n u) :=
  ⟨rfl, rfl, rfl, rfl, rfl, rfl, rfl, rfl, rfl⟩

/-! ### A step that performs a START (70_reset_and_hazards.md R204) -/

section StepStart

variable {s : State} {rest : List HostCommand} (hp : s.pending = .start :: rest)
include hp

theorem step_start_of_selected {i : Instr} (hsel : decodeSelector config s.len = .ok i) :
    step s = .next (execResult i (s.withPending rest).discardResult) := by
  have hexec : exec i (s.withPending rest).discardResult = _ := exec_of_selected hsel
  rw [step_of_pending hp, runCommand, startDecode, fetchSelector, withPending_len, hsel, ← hexec]

theorem step_start_of_unsupported {e : DecodeError}
    (hsel : decodeSelector config s.len = .error e) :
    step s = .next (takeUnsupportedFormat s.len (s.withPending rest).discardResult) := by
  rw [decodeSelector_error hsel] at hsel
  rw [step_of_pending hp, runCommand, startDecode, fetchSelector, withPending_len, hsel]

end StepStart

theorem run_two {s u t : State} (hfirst : step s = .next u) (hsecond : step u = .next t) :
    Sys2Proof.core.run 2 s = .next t := by
  rw [run_next hfirst, run_next hsecond, run_zero]

/-! ### A file in the buffer (70_reset_and_hazards.md R203) -/

/-- BUF holds the bytes of `b` from offset 0 on, and LEN is their number. -/
def HoldsFile (s : State) (b : List Byte) : Prop :=
  s.len = b.length ∧ ∀ a, a < b.length → b[a]? = some (bufRead s a)

/-- A file no longer than BUF_CAP is held whole after its LOAD. -/
theorem holdsFile_hostLoad {c : Config} {s : State} {b : List Byte} (hs : s.buf.wf = true)
    (hcap : b.length ≤ c.bufCap) : HoldsFile (hostLoad c b s) b := by
  refine ⟨rfl, fun a ha => ?_⟩
  have hbyte : b[a]? = some b[a] := List.getElem?_eq_getElem ha
  rw [bufRead_hostLoad_inside c b s a b[a] hs (Nat.lt_of_lt_of_le ha hcap) hbyte, hbyte]

/-- What a START does before its decode leaves the file where it is. -/
theorem holdsFile_discardResult_withPending {s : State} {b : List Byte} (h : HoldsFile s b)
    (cs : List HostCommand) : HoldsFile (s.withPending cs).discardResult b := h

section File

variable {s : State} {b : List Byte} (hfile : HoldsFile s b)
include hfile

/-- Consecutive bytes of BUF are a piece of the file. -/
theorem map_range_bufRead {off n : Nat} (h : off + n ≤ b.length) :
    (List.range n).map (fun j => bufRead s (off + j)) = (b.drop off).take n := by
  obtain ⟨_, hbytes⟩ := hfile
  refine List.ext_getElem? fun j => ?_
  by_cases hj : j < n
  · rw [List.getElem?_take_of_lt hj, List.getElem?_drop, hbytes _ (by omega), List.getElem?_map,
      List.getElem?_range hj, Option.map_some]
  · rw [List.getElem?_eq_none (by simpa using hj), List.getElem?_eq_none (by simp; omega)]

theorem map_range_bufRead_take {n : Nat} (h : n ≤ b.length) :
    (List.range n).map (bufRead s) = b.take n := by
  simpa using map_range_bufRead hfile (off := 0) (n := n) (by omega)

/-- The stored CLUT is the end of the file, the low 7 bits of each byte (45_assembler.md R161). -/
theorem clutLoad_of_file {c : Config} (hc : c.wf = true) {f : Format} {off : Nat}
    (hoff : clutOffset c f = some off) (hlen : b.length = formatSize c f) :
    clutLoad c f s = (b.drop off).map fun v => v.setWidth 7 := by
  obtain ⟨_, hend⟩ := clutOffset_bounds hc hoff
  have hbytes := map_range_bufRead hfile (off := off) (n := formatClutLen f) (by omega)
  rw [List.take_of_length_le (by rw [List.length_drop]; omega)] at hbytes
  rw [clutLoad, hoff, ← hbytes, List.map_map, tabulate_eq_map_range]
  refine List.map_congr_left fun j _ => ?_
  rw [clutAt, hoff]
  exact paletteIndexOfByte_eq_setWidth _

theorem execPixels_decRaw_of_file (hlen : b.length = 98304) :
    execPixels .decRaw s = b.map fun v => v.setWidth 7 := by
  have hbytes := map_range_bufRead_take hfile hlen.ge
  rw [List.take_of_length_le hlen.le] at hbytes
  rw [← hbytes, List.map_map]
  exact (tabulate_eq_map_range 98304 (rawPix s)).trans
    (List.map_congr_left fun k _ => rawPix_eq s k)

/-- The pixels of a linear format are the UNPACK lists of the first bytes of the file. -/
theorem linearPixels_of_file (bpp : Nat) {n : Nat} (h : n ≤ b.length) :
    tabulate (pixelsPerByte bpp * n) (linearPixel s bpp) =
      (b.take n).flatMap fun v => (unpack v bpp).map (BitVec.ofNat 7) := by
  rw [linearPixels_eq_flatMap_unpack, ← map_range_bufRead_take hfile h, List.flatMap_map]

end File

/-! ### The result of a file (45_assembler.md R160 to R166) -/

/-- What a result of format `f` holds of the file `b` it was decoded from: IDX, and the raster of
RawIndexed or the stored CLUT of the other formats. -/
def ResultOfFile (b : List Byte) (t : State) : Format → Prop
  | .rawIndexed => t.idx = b.map (fun v => v.setWidth 7) ∧
      t.rgb = b.map (fun v => palRgb config (v.setWidth 7))
  | .mode1 => t.idx.length = 49152 ∧
      (∀ x y, x < 256 → y < 192 → ∃ a d, b[0x1800 + 32 * (y / 8) + x / 8]? = some a ∧
        b[2048 * (y / 64) + 256 * (y % 8) + 32 * (y / 8 % 8) + x / 8]? = some d ∧
        t.idx[y * 256 + x]? = some (BitVec.ofNat 7 (attrColour a d x))) ∧
      t.clut = (b.drop 6912).map (fun v => v.setWidth 7)
  | .mode2 => t.idx.length = 49152 ∧
      (∀ x y, x < 256 → y < 192 → ∃ a d, b[0x1800 + 32 * y + x / 8]? = some a ∧
        b[32 * y + x / 8]? = some d ∧
        t.idx[y * 256 + x]? = some (BitVec.ofNat 7 (attrColour a d x))) ∧
      t.clut = (b.drop 12288).map (fun v => v.setWidth 7)
  | .linear2bpp => t.idx = (b.take 24576).flatMap (fun v => (unpack v 2).map (BitVec.ofNat 7)) ∧
      t.clut = (b.drop 24576).map (fun v => v.setWidth 7)
  | .linear4bpp => t.idx = (b.take 24576).flatMap (fun v => (unpack v 4).map (BitVec.ofNat 7)) ∧
      t.clut = (b.drop 24576).map (fun v => v.setWidth 7)

theorem resultOfFile_execResult {i : Instr} {s : State} {b : List Byte} (hfile : HoldsFile s b)
    (hlen : b.length = formatSize config (operationFormat i)) :
    ResultOfFile b (execResult i s) (operationFormat i) := by
  have hregion := pixelRegionBytes_le_formatSize (c := config) rfl (operationFormat i)
  rw [← hlen] at hregion
  have hclut {off : Nat} (hoff : clutOffset config (operationFormat i) = some off) :=
    clutLoad_of_file hfile rfl hoff hlen
  have ⟨_, hbytes⟩ := hfile
  have hbyte {a : Nat} (ha : a < pixelRegionBytes (operationFormat i)) :
      b[a]? = some (bufRead s a) := hbytes a (Nat.lt_of_lt_of_le ha hregion)
  cases i with
  | decRaw =>
    have hidx := execPixels_decRaw_of_file hfile hlen
    refine ⟨hidx, ?_⟩
    rw [execResult_decRaw_rgb, hidx, List.map_map]
    rfl
  | decM1 =>
    refine ⟨execResult_idx_length .decM1 s, fun x y hx hy => ?_, hclut rfl⟩
    rw [← m1Attr_eq_of_lt hx hy, ← m1Data_eq_of_lt hx hy]
    refine ⟨_, _, hbyte (m1Attr_lt hy), hbyte (m1Data_lt hy), ?_⟩
    rw [← mode1Pixel_eq]
    exact mode1Pixels_getElem? (c := config) rfl s hx hy
  | decM2 =>
    refine ⟨execResult_idx_length .decM2 s, fun x y hx hy => ?_, hclut rfl⟩
    refine ⟨_, _, hbyte (m2Attr_eq_of_lt hx y ▸ m2Attr_lt hy),
      hbyte (m2Data_eq_of_lt hx y ▸ m2Data_lt hy), ?_⟩
    rw [← mode2Pixel_eq s hx]
    exact execPixels_decM2_getElem? s hx hy
  | decL2 => exact ⟨linearPixels_of_file hfile 2 hregion, hclut rfl⟩
  | decL4 => exact ⟨linearPixels_of_file hfile 4 hregion, hclut rfl⟩

theorem operationFormat_eq_of_length {i : Instr} {f : Format} {n : Nat}
    (hsel : decodeSelector config n = .ok i) (hf : n = formatSize config f) :
    operationFormat i = f :=
  formatSize_injective (c := config) rfl ((decodeSelector_size hsel).symm.trans hf)

/-- The operation the length of a file selects gives the file's result. -/
theorem resultOfFile_of_length {i : Instr} {s : State} {b : List Byte} (hfile : HoldsFile s b)
    (hsel : decodeSelector config b.length = .ok i) (f : Format)
    (hf : b.length = formatSize config f) : ResultOfFile b (execResult i s) f := by
  obtain rfl := operationFormat_eq_of_length hsel hf
  exact resultOfFile_execResult hfile hf

theorem no_formatSize_of_unsupported {n : Nat} {e : DecodeError}
    (hsel : decodeSelector config n = .error e) (f : Format) : n ≠ formatSize config f := by
  rintro rfl
  rw [decodeSelector_of_classify (classify_formatSize rfl f)] at hsel
  cases hsel

/-! ### The statements -/

/-- Settles O16: LEN selects DEC.RAW, so it completes with `execResult`. -/
theorem decRawResult : Obligations.DecRawResult := by
  intro s hlen
  have hsel : decodeSelector config s.len = .ok .decRaw := by rw [hlen]; rfl
  refine ⟨execResult .decRaw s, exec_of_selected hsel, doneAs_decodeResult rfl s,
    execResult_idx_length .decRaw s, fun k hk => execPixels_decRaw_getElem? s hk, rfl,
    fun j hj => readClut_execResult .decRaw s hj, ?_, fun k hk => ?_,
    inputKept_execResult .decRaw s, ⟨rfl, rfl⟩⟩
  · rw [execResult_decRaw_rgb, List.length_map]
    exact execPixels_length .decRaw s
  · rw [execResult_decRaw_rgb, List.getElem?_map, execPixels_decRaw_getElem? s hk, Option.map_some]

/-- Settles O42: the state is an operation's result, whose raster is composed and whose logical
colours are below CLUTLEN. -/
theorem resultReadsCompose : Obligations.ResultReadsCompose := by
  intro s k f hinv hf hk
  have hst : s.status = .done := status_done_of_fmt hinv hf
  obtain ⟨i, rfl, hres⟩ := execResult_eq_of_fmt hinv hf
  obtain ⟨_, hraster⟩ := rasterComposed_execResult i s
  have hbelow : ∀ v ∈ (execResult i s).idx, v.toNat < formatClutLen (operationFormat i) :=
    execPixels_lt i s
  rw [hres] at hraster hbelow
  obtain ⟨v, p, hidx, hclut, hrgb⟩ := hraster k hk
  exact ⟨v, p, hostRead_idx_of_done config hst hidx, hbelow v (List.mem_of_getElem? hidx),
    hostRead_clut_of_done config hst hclut, hostRead_rgb_of_done config hst hrgb, hostRead_pal s p⟩

/-- Settles O51: equal lengths select the same operation, which reads its layout alone, or raise the
same error. -/
theorem outcomeDependsOnBufferOnly : Obligations.OutcomeDependsOnBufferOnly := by
  intro s u restS restU hps hpu hlen hbytes
  cases hsel : decodeSelector config s.len with
  | ok i =>
    rw [decodeSelector_size hsel] at hbytes
    exact ⟨_, _, step_start_of_selected hps hsel, step_start_of_selected hpu (hlen ▸ hsel),
      sameOutcome_execResult hbytes⟩
  | error e =>
    refine ⟨_, _, step_start_of_unsupported hps hsel,
      step_start_of_unsupported hpu (hlen ▸ hsel), ?_⟩
    rw [hlen]
    exact sameOutcome_takeUnsupportedFormat u.len _ _

/-- Settles O52: after the LOAD the buffer holds the file, and the START decodes it by the operation
its length selects, or raises the error with that length. -/
theorem loadThenStartDecodesTheFile : Obligations.LoadThenStartDecodesTheFile := by
  intro s b rest hs hp
  have hload : step s = .next (hostLoad config b (s.withPending (.start :: rest))) :=
    step_of_pending hp
  cases hsel : decodeSelector config b.length with
  | ok i =>
    have hcap : b.length ≤ config.bufCap :=
      decodeSelector_size hsel ▸ formatSize_le_bufCap rfl (operationFormat i)
    have hfile := holdsFile_hostLoad (s := s.withPending (.start :: rest)) hs hcap
    have hresult :=
      resultOfFile_of_length (holdsFile_discardResult_withPending hfile rest) hsel
    refine ⟨_, run_two hload (step_start_of_selected rfl hsel), rfl, rfl,
      iff_of_true rfl ⟨_, decodeSelector_size hsel⟩, fun hst => absurd rfl hst, fun f hf => ?_,
      hresult .rawIndexed, hresult .mode1, hresult .mode2, hresult .linear2bpp,
      hresult .linear4bpp⟩
    obtain rfl := operationFormat_eq_of_length hsel hf
    exact ⟨rfl, rasterComposed_execResult i _⟩
  | error e =>
    have hother := no_formatSize_of_unsupported hsel
    exact ⟨_, run_two hload (step_start_of_unsupported rfl hsel), rfl, rfl,
      iff_of_false nofun fun ⟨f, hf⟩ => hother f hf,
      fun _ => ⟨rfl, rfl, rfl, rfl, rfl, rfl, rfl, rfl, rfl⟩, fun f hf => absurd hf (hother f),
      fun hf => absurd hf (hother .rawIndexed), fun hf => absurd hf (hother .mode1),
      fun hf => absurd hf (hother .mode2), fun hf => absurd hf (hother .linear2bpp),
      fun hf => absurd hf (hother .linear4bpp)⟩

end Sys2Proof.Proofs
end

section
/-! PROOFS, family 60_exceptions.md. An unsupported length is one no operation is selected by; what
UnsupportedFormat saves and leaves; from them when ERROR is raised, kept and raised again; and
STATUS as its code and its level outputs. -/

namespace Sys2Proof.Proofs

open Sys2Proof.Machine Sys2Proof.Safety Sys2Proof.Laws

/-! ### Unsupported lengths (60_exceptions.md R181) -/

theorem unsupported_iff_no_operation {c : Config} {n : Nat} :
    decodeSelector c n = .error (.unsupportedFormat n) ↔ ∀ i, decodeSelector c n ≠ .ok i := by
  constructor
  · intro herr i hok
    cases herr.symm.trans hok
  · intro hnone
    cases hsel : decodeSelector c n with
    | ok i => exact absurd hsel (hnone i)
    | error e => rw [decodeSelector_error hsel]

theorem unsupported_of_no_formatSize {c : Config} (hc : c.wf = true) {n : Nat}
    (h : ∀ f, n ≠ formatSize c f) : decodeSelector c n = .error (.unsupportedFormat n) :=
  decodeSelector_of_classify_error ((classify_eq_error_iff hc).mpr ⟨rfl, h⟩)

/-! ### Taking UnsupportedFormat (60_exceptions.md R183) -/

theorem noResult_takeUnsupportedFormat (n : Nat) (s : State) :
    NoResult (takeUnsupportedFormat n s) :=
  ⟨rfl, rfl, rfl, rfl, rfl, rfl, rfl⟩

/-- START's discarding of the old result is not seen after the exception, which leaves none. -/
theorem takeUnsupportedFormat_discardResult (n : Nat) (s : State) :
    takeUnsupportedFormat n s.discardResult = takeUnsupportedFormat n s := rfl

theorem takeUnsupportedFormat_withPending (n : Nat) (s : State) (cs : List HostCommand) :
    takeUnsupportedFormat n (s.withPending cs) = (takeUnsupportedFormat n s).withPending cs := rfl

/-- The exception writes nothing new to a state that is already in ERROR for the same length. -/
theorem takeUnsupportedFormat_eq_self {n : Nat} {s : State} (hst : s.status = .error)
    (herr : s.errSize = some n) (hres : NoResult s) : takeUnsupportedFormat n s = s := by
  obtain ⟨buf, len, status, fmt, width, height, clutLen, errSize, clut, idx, rgb, pending,
    replies⟩ := s
  obtain ⟨rfl, rfl, rfl, rfl, rfl, rfl, rfl⟩ := hres
  obtain rfl : status = .error := hst
  obtain rfl : errSize = some n := herr
  rfl

/-- What the invariant says of ERROR: the error is that of the length held (10_state.md R28, R36). -/
theorem unsupported_of_error {s : State} (hinv : Inv s) (hst : s.status = .error) :
    s.errSize = some s.len ∧ decodeSelector config s.len = .error (.unsupportedFormat s.len) := by
  obtain ⟨_, _, hagrees⟩ := hinv
  unfold StatusAgrees at hagrees
  rw [hst] at hagrees
  obtain ⟨_, herr, hsel⟩ := hagrees
  exact ⟨herr, hsel⟩

/-! ### STATUS, its codes and the level outputs (60_exceptions.md R187, 10_state.md R25) -/

theorem statusCode_eq_iff {a b : Status} : statusCode a = statusCode b ↔ a = b := by
  cases a <;> cases b <;> decide

theorem statusCode_ne_three (a : Status) : statusCode a ≠ 3#2 := by
  cases a <;> decide

theorem doneOutput_iff (s : State) : s.doneOutput = true ↔ s.status = .done := decide_eq_true_iff

theorem errorOutput_iff (s : State) : s.errorOutput = true ↔ s.status = .error := decide_eq_true_iff

/-! ### The statements -/

/-- Settles O29: a length other than the five is no format's size, so START takes the exception. -/
theorem unsupportedFormatEntry : Obligations.UnsupportedFormatEntry := by
  intro s rest hp hraw hmode1 hmode2 hlin2 hlin4
  have hother : ∀ f, s.len ≠ formatSize config f := by
    intro f
    cases f with
    | rawIndexed => exact hraw
    | mode1 => exact hmode1
    | mode2 => exact hmode2
    | linear2bpp => exact hlin2
    | linear4bpp => exact hlin4
  have hsel := unsupported_of_no_formatSize (c := config) rfl hother
  exact ⟨_, step_start_of_unsupported hp hsel, rfl, rfl, noResult_takeUnsupportedFormat _ _,
    inputKept_of_eq rfl rfl, rfl, rfl⟩

/-- Settles O30: of the cases of `step_next_cases`, RESET, LOAD and a decode leave another STATUS,
and a read or an idle step leaves the STATUS it found. -/
theorem errorRaisedOnlyByStart : Obligations.ErrorRaisedOnlyByStart := by
  intro s t hstep
  refine ⟨fun hs ht => ?_, fun rest hp hnone => ?_⟩
  · rcases step_next_cases hstep with ⟨_, rfl⟩ | ⟨rest, _, rfl⟩ | ⟨b, rest, _, rfl⟩ |
      ⟨rest, i, _, _, rfl⟩ | ⟨rest, hp, hsel, rfl⟩ | ⟨r, rest, v, _, _, rfl⟩
    · exact absurd ht hs
    · cases ht
    · cases ht
    · cases ht
    · exact ⟨⟨rest, hp⟩, unsupported_iff_no_operation.mp hsel, rfl⟩
    · exact absurd ht hs
  · have hraised := step_start_of_unsupported hp (unsupported_iff_no_operation.mpr hnone)
    obtain rfl := Host.Outcome.next.inj (hraised.symm.trans hstep)
    exact ⟨rfl, rfl⟩

/-- Settles O31: besides RESET, LOAD and START a step answers a read or finds nothing pending, and
neither writes a register. -/
theorem errorPersists : Obligations.ErrorPersists := by
  intro s t hstep hst
  rcases step_next_cases hstep with ⟨_, rfl⟩ | ⟨rest, hp, _⟩ | ⟨b, rest, hp, _⟩ |
    ⟨rest, _, hp, _⟩ | ⟨rest, hp, _⟩ | ⟨r, rest, v, _, _, rfl⟩
  · exact .inr ⟨hst, rfl⟩
  · exact .inl ⟨rest, .inl hp⟩
  · exact .inl ⟨rest, .inr (.inr ⟨b, hp⟩)⟩
  · exact .inl ⟨rest, .inr (.inl hp)⟩
  · exact .inl ⟨rest, .inr (.inl hp)⟩
  · exact .inr ⟨hst, rfl⟩

/-- Settles O32: LEN is still the length rejected, so START takes the exception again, which leaves
the state it finds. -/
theorem repeatedStartSameError : Obligations.RepeatedStartSameError := by
  intro s rest hinv hst hp
  obtain ⟨herr, hsel⟩ := unsupported_of_error hinv hst
  have hres : NoResult s := noResult_of_not_done hinv (hst ▸ nofun)
  have hstep : step s = .next (s.withPending rest) := by
    rw [step_start_of_unsupported hp hsel, takeUnsupportedFormat_discardResult,
      takeUnsupportedFormat_withPending, takeUnsupportedFormat_eq_self hst herr hres]
  exact ⟨_, hstep, hst, rfl, rfl⟩

/-- Settles O43: `step` on an empty queue is the case that performs no command. -/
theorem idleStepHolds : Obligations.IdleStepHolds := by
  intro s hp
  rw [step, hp]

/-- Settles O47: each output is one value of STATUS, and no two values share a code. -/
theorem levelOutputsFollowStatus : Obligations.LevelOutputsFollowStatus := by
  intro s
  rw [doneOutput_iff, errorOutput_iff]
  exact ⟨statusCode_eq_iff.symm, statusCode_eq_iff.symm, statusCode_eq_iff.symm,
    statusCode_ne_three s.status⟩

end Sys2Proof.Proofs
end

section
/-! PROOFS, family 70_reset_and_hazards.md, and PAL_HI_POLICY of 93_implementation_defined.md U1.
What each host command does in one step, from which every run of the pending commands ends; the
reads that have a value, in DONE and in every other status; and the lowest palette byte above 127,
at which the policy fault stops. -/

namespace Sys2Proof.Proofs

open Sys2Proof.Machine Sys2Proof.Safety Sys2Proof.Laws

/-! ### One command, one step (70_reset_and_hazards.md R200 to R207) -/

theorem noResult_discardResult (s : State) : NoResult s.discardResult :=
  ⟨rfl, rfl, rfl, rfl, rfl, rfl, rfl⟩

theorem noResult_reset : NoResult State.reset := ⟨rfl, rfl, rfl, rfl, rfl, rfl, rfl⟩

/-- START always completes: an operation is selected and has its layout in BUF, or the exception is
taken (45_assembler.md R165, 60_exceptions.md R183). -/
theorem step_start_completes {s : State} {rest : List HostCommand}
    (hp : s.pending = .start :: rest) : ∃ t, step s = .next t ∧ t.pending = rest := by
  cases hsel : decodeSelector config s.len with
  | ok i => exact ⟨_, step_start_of_selected hp hsel, rfl⟩
  | error e => exact ⟨_, step_start_of_unsupported hp hsel, rfl⟩

/-- All a step can do with a command pending: perform it and take it from the queue, or refuse it,
which only a read without a defined value is. -/
theorem step_of_pending_cases {s : State} {cmd : HostCommand} {rest : List HostCommand}
    (hp : s.pending = cmd :: rest) :
    (∃ t, step s = .next t ∧ t.pending = rest) ∨
    (∃ r, cmd = .read r ∧ step s = .refused (.readHasNoValue r)) := by
  cases cmd with
  | reset => exact .inl ⟨_, step_of_pending hp, rfl⟩
  | load b => exact .inl ⟨_, step_of_pending hp, rfl⟩
  | start => exact .inl (step_start_completes hp)
  | read r =>
    have hread : step s = answerRead r (s.withPending rest) := step_of_pending hp
    rcases answerRead_cases r (s.withPending rest) with ⟨v, _, hnext⟩ | ⟨_, hrefused⟩
    · exact .inl ⟨_, hread.trans hnext, rfl⟩
    · exact .inr ⟨r, rfl, hread.trans hrefused⟩

/-- A read waiting in the queue does not change what it delivers, so it is answered by the value the
block has for it. -/
theorem step_read_of_some {s : State} {r : HostRead} {rest : List HostCommand} {v : ReadValue}
    (hp : s.pending = .read r :: rest) (hv : hostRead config r s = some v) :
    step s = .next ((s.withPending rest).withReply v) := by
  rw [step_of_pending hp, runCommand, answerRead, hostRead_withPending, hv]

theorem step_read_of_none {s : State} {r : HostRead} {rest : List HostCommand}
    (hp : s.pending = .read r :: rest) (hv : hostRead config r s = none) :
    step s = .refused (.readHasNoValue r) := by
  rw [step_of_pending hp, runCommand, answerRead, hostRead_withPending, hv]

/-- A run performs its pending commands one by one, each step keeping the invariant, until none is
left or a read is refused. -/
theorem run_pending_ends (cs : List HostCommand) :
    ∀ s : State, Inv s → s.pending = cs →
      (∃ t, Sys2Proof.core.run cs.length s = .next t ∧ t.pending = [] ∧ Inv t) ∨
      (∃ r, .read r ∈ cs ∧ Sys2Proof.core.run cs.length s = .refused (.readHasNoValue r)) := by
  induction cs with
  | nil => exact fun s hinv hp => .inl ⟨s, run_zero s, hp, hinv⟩
  | cons cmd rest ih =>
    intro s hinv hp
    rw [List.length_cons]
    rcases step_of_pending_cases hp with ⟨u, hstep, hrest⟩ | ⟨r, rfl, hrefused⟩
    · rw [run_next hstep]
      rcases ih u (stepKeepsInvariant s u hinv hstep) hrest with hends | ⟨r, hmem, hstops⟩
      · exact .inl hends
      · exact .inr ⟨r, List.mem_cons_of_mem _ hmem, hstops⟩
    · exact .inr ⟨r, List.mem_cons_self, run_refused hrefused⟩

/-! ### Where a read has a value (70_reset_and_hazards.md R206, 10_state.md R36) -/

/-- RawIndexed stores no CLUT, every other format CLUTLEN entries (10_state.md R31). -/
theorem execResult_clut_length (i : Instr) (s : State) :
    (execResult i s).clut.length =
      if operationFormat i = .rawIndexed then 0 else formatClutLen (operationFormat i) :=
  clutLoad_length config _ s

/-- The CLUT of a result reads below CLUTLEN and nowhere else. -/
theorem readClut_execResult_isSome (i : Instr) (s : State) (j : Nat) :
    (readClut (execResult i s) j).isSome ↔ j < formatClutLen (operationFormat i) := by
  constructor
  · intro hsome
    by_contra hj
    have hnone : readClut (execResult i s) j = none := by
      cases i with
      | decRaw => exact if_neg hj
      | decM1 | decM2 | decL2 | decL4 =>
        exact List.getElem?_eq_none ((execResult_clut_length _ s).trans_le (Nat.not_lt.mp hj))
    rw [hnone] at hsome
    cases hsome
  · intro hj
    rw [readClut_execResult i s hj]
    rfl

/-- RGB has one entry for each pixel of the format (10_state.md R33). -/
theorem execResult_rgb_length (i : Instr) (s : State) :
    (execResult i s).rgb.length = formatPixels config (operationFormat i) :=
  (rasterComposed_execResult i s).1

/-- A grid with an entry for each pixel reads by the pairs inside WIDTH and HEIGHT and by no
others. -/
theorem gridAt_execResult_isSome {α : Type} (i : Instr) (s : State) {grid : List α}
    (hlen : grid.length = formatPixels config (operationFormat i)) (x y : Nat) :
    (gridAt (execResult i s) grid x y).isSome ↔
      x < formatWidth config (operationFormat i) ∧ y < formatHeight config (operationFormat i) := by
  simp only [gridAt, execResult_width, execResult_height, width_register_toNat,
    height_register_toNat]
  split
  next hxy =>
    obtain ⟨hx, hy⟩ := hxy
    have hpos := gridPos_lt hx hy
    rw [← formatPixels, ← hlen] at hpos
    simp [hpos, hx, hy]
  next hxy => simp [hxy]

/-- PAL reads at its 128 entries, in every state. -/
theorem hostRead_pal_isSome (s : State) (n : Nat) :
    (hostRead config (.pal n) s).isSome ↔ n < 128 := by
  rw [hostRead, Option.isSome_ite]
  exact Iff.rfl

/-- In DONE, where the state is an operation's result. -/
theorem hostRead_execResult_isSome (r : HostRead) (i : Instr) (s : State) :
    (hostRead config r (execResult i s)).isSome ↔ ReadAllowed r (execResult i s) := by
  have hst := execResult_status i s
  have hfmt : (execResult i s).fmt = some (operationFormat i) := rfl
  have hidx := execResult_idx_length i s
  have hrgb := execResult_rgb_length i s
  cases r with
  | len | status => simp [hostRead, ReadAllowed]
  | fmt => simp [hostRead_fmt_execResult, ReadAllowed]
  | width => simp [hostRead_width_execResult, ReadAllowed]
  | height => simp [hostRead_height_execResult, ReadAllowed]
  | clutLen => simp [hostRead_clutLen_execResult, ReadAllowed]
  | errSize => simp [hostRead, ReadAllowed]
  | clut j =>
    simp [hostRead, ReadAllowed, whenDone_of_done hst, hfmt, readClut_execResult_isSome]
  | idx k => simp [hostRead, ReadAllowed, whenDone_of_done hst, hfmt, hidx]
  | rgb k => simp [hostRead, ReadAllowed, whenDone_of_done hst, hfmt, hrgb]
  | idxAt x y =>
    simp [hostRead, ReadAllowed, whenDone_of_done hst, hfmt, gridAt_execResult_isSome i s hidx]
  | rgbAt x y =>
    simp [hostRead, ReadAllowed, whenDone_of_done hst, hfmt, gridAt_execResult_isSome i s hrgb]
  | pal n => exact hostRead_pal_isSome _ n

/-- ERRSIZE in ERROR is the length held, which START rejected. -/
theorem hostRead_errSize_of_error {s : State} (hinv : Inv s) (hst : s.status = .error) :
    hostRead config .errSize s = some (.length s.len) := by
  obtain ⟨herr, _⟩ := unsupported_of_error hinv hst
  rw [hostRead, if_pos hst, herr, Option.map_some]

/-- Outside DONE nothing of the result reads, and ERRSIZE does in ERROR alone. -/
theorem hostRead_isSome_of_not_done {s : State} (hinv : Inv s) (hst : s.status ≠ .done)
    (r : HostRead) : (hostRead config r s).isSome ↔ ReadAllowed r s := by
  cases r with
  | len | status => simp [hostRead, ReadAllowed]
  | errSize =>
    by_cases herr : s.status = .error
    · simp [hostRead_errSize_of_error hinv herr, ReadAllowed, herr]
    · simp [hostRead, ReadAllowed, herr]
  | pal n => exact hostRead_pal_isSome _ n
  | fmt | width | height | clutLen | clut j | idx k | rgb k | idxAt x y | rgbAt x y =>
    simp [hostRead, ReadAllowed, whenDone_of_not_done hst, hst]

/-- A read has a value exactly under the conditions of R206. -/
theorem hostRead_isSome_iff {s : State} (hinv : Inv s) (r : HostRead) :
    (hostRead config r s).isSome ↔ ReadAllowed r s := by
  by_cases hst : s.status = .done
  · obtain ⟨i, _, hres⟩ := execResult_eq_of_done hinv hst
    rw [← hres]
    exact hostRead_execResult_isSome r i s
  · exact hostRead_isSome_of_not_done hinv hst r

/-- A CLUT read of RawIndexed returns its index, though no entry is stored. -/
theorem readClut_of_rawIndexed {s : State} (hf : s.fmt = some .rawIndexed) {j : Nat}
    (hj : j < 128) : readClut s j = some (BitVec.ofNat 7 j) := by
  rw [readClut, hf]
  exact if_pos hj

/-! ### What a read in DONE delivers (10_state.md R31 to R33) -/

theorem hostRead_status_of_eq {s : State} {a : Status} (hst : s.status = a) :
    hostRead config .status s = some (.status (statusCode a)) := by
  rw [hostRead, hst]

theorem clutAt_of_stored {c : Config} {f : Format} {off : Nat} (s : State) (j : Nat)
    (hoff : clutOffset c f = some off) :
    clutAt c f s j = paletteIndexOfByte (bufRead s (off + j)) := by
  rw [clutAt, hoff]

/-- The stored CLUT entries of a result are the low 7 bits of the CLUT bytes, and the host reads
what is stored. -/
theorem clut_of_fmt {s : State} {f : Format} (hinv : Inv s) (hf : s.fmt = some f) {off j : Nat}
    (hoff : clutOffset config f = some off) (hj : j < formatClutLen f) :
    s.clut[j]? = some ((bufRead s (off + j)).setWidth 7) ∧
      hostRead config (.clut j) s = some (.clutEntry ((bufRead s (off + j)).setWidth 7)) := by
  have hst := status_done_of_fmt hinv hf
  obtain ⟨i, rfl, hres⟩ := execResult_eq_of_fmt hinv hf
  have hstored : (execResult i s).clut[j]? = some (paletteIndexOfByte (bufRead s (off + j))) :=
    clutLoad_getElem? config _ s off j hoff hj
  have hread := readClut_execResult i s hj
  rw [clutAt_of_stored s j hoff] at hread
  rw [hres, paletteIndexOfByte_eq_setWidth] at hstored hread
  exact ⟨hstored, hostRead_clut_of_done config hst hread⟩

/-- The pixels of a result, in IDX and in RGB, and the host reads what is stored. -/
theorem pixel_of_fmt {s : State} {f : Format} (hinv : Inv s) (hf : s.fmt = some f) {k : Nat}
    (hk : k < formatPixels config f) :
    ∃ v t, s.idx[k]? = some v ∧ s.rgb[k]? = some t ∧
      hostRead config (.idx k) s = some (.idxEntry v) ∧
      hostRead config (.rgb k) s = some (.colour (rgbPort t)) := by
  have hst := status_done_of_fmt hinv hf
  obtain ⟨i, rfl, hres⟩ := execResult_eq_of_fmt hinv hf
  obtain ⟨_, hraster⟩ := rasterComposed_execResult i s
  rw [hres] at hraster
  obtain ⟨v, p, hidx, _, hrgb⟩ := hraster k hk
  exact ⟨v, _, hidx, hrgb, hostRead_idx_of_done config hst hidx,
    hostRead_rgb_of_done config hst hrgb⟩

/-! ### The lowest palette byte above 127 (93_implementation_defined.md U1) -/

/-- `firstHighByte` finds the lowest offset of its range with a byte above 127. -/
theorem firstHighByte_eq_some_iff (s : State) (lo n a : Nat) :
    firstHighByte s lo n = some a ↔
      lo ≤ a ∧ a < lo + n ∧ 128 ≤ (bufRead s a).toNat ∧
        ∀ b, b < a → lo ≤ b → (bufRead s b).toNat < 128 := by
  induction n generalizing lo with
  | zero => simp only [firstHighByte, reduceCtorEq, false_iff]; omega
  | succ n ih =>
    by_cases hhigh : 127 < (bufRead s lo).toNat
    · rw [firstHighByte, if_pos hhigh, Option.some.injEq]
      constructor
      · rintro rfl
        exact ⟨Nat.le_refl _, by omega, hhigh, fun b hb hlo => by omega⟩
      · rintro ⟨hle, _, _, hbelow⟩
        by_contra hne
        have := hbelow lo (by omega) (Nat.le_refl _)
        omega
    · rw [firstHighByte, if_neg hhigh, ih]
      constructor
      · rintro ⟨hle, hlt, hbyte, hbelow⟩
        refine ⟨by omega, by omega, hbyte, fun b hb hlo => ?_⟩
        rcases Nat.eq_or_lt_of_le hlo with rfl | hlo
        · omega
        · exact hbelow b hb hlo
      · rintro ⟨hle, hlt, hbyte, hbelow⟩
        have hne : a ≠ lo := by rintro rfl; omega
        exact ⟨by omega, by omega, hbyte, fun b hb hlo => hbelow b hb (by omega)⟩

/-- Where the bytes used as PaletteIndex values begin: the CLUT region, or for RawIndexed the
pixels. They reach to the end of the layout. -/
def paletteStart (c : Config) (f : Format) : Nat := (clutOffset c f).getD 0

theorem paletteStart_le_iff {c : Config} {f : Format} {a : Nat} :
    paletteStart c f ≤ a ↔ ∀ off, clutOffset c f = some off → off ≤ a := by
  unfold paletteStart
  cases clutOffset c f <;> simp

theorem highPaletteByte_eq_firstHighByte {c : Config} (hc : c.wf = true) (f : Format) (s : State) :
    highPaletteByte c f s =
      firstHighByte s (paletteStart c f) (formatSize c f - paletteStart c f) := by
  unfold highPaletteByte paletteStart
  cases hoff : clutOffset c f with
  | none => rfl
  | some off =>
    obtain ⟨_, hend⟩ := clutOffset_bounds hc hoff
    rw [Option.getD_some, ← hend, Nat.add_sub_cancel_left]

theorem highPaletteByte_eq_some_iff {c : Config} (hc : c.wf = true) (f : Format) (s : State)
    (a : Nat) :
    highPaletteByte c f s = some a ↔
      a < formatSize c f ∧ (∀ off, clutOffset c f = some off → off ≤ a) ∧
        128 ≤ (bufRead s a).toNat ∧
        ∀ b, b < a → (∀ off, clutOffset c f = some off → off ≤ b) →
          (bufRead s b).toNat < 128 := by
  simp only [← paletteStart_le_iff]
  rw [highPaletteByte_eq_firstHighByte hc, firstHighByte_eq_some_iff]
  constructor
  · rintro ⟨hle, hlt, hbyte, hbelow⟩
    exact ⟨by omega, hle, hbyte, hbelow⟩
  · rintro ⟨hlt, hle, hbyte, hbelow⟩
    exact ⟨hle, by omega, hbyte, hbelow⟩

/-- With the layout in BUF, the policy stop is the only fault a decode has. -/
theorem runDecode_eq_paletteByteHigh_iff {c : Config} {f : Format} {s : State}
    (hlen : formatSize c f ≤ s.len) (px : List LogicalColour) (a : Nat) :
    runDecode c f px s = .fault (.paletteByteHigh a) ↔ palHiStop c f s = some a := by
  rw [runDecode, if_neg (Nat.not_lt.mpr hlen)]
  cases palHiStop c f s <;> simp

/-- The policy is read where it stops a decode and nowhere else. -/
theorem runDecode_eq_mask_of_no_stop {c : Config} {f : Format} {s : State}
    (h : palHiStop c f s = none) (px : List LogicalColour) :
    runDecode c f px s = runDecode { c with palHiPolicy := .mask } f px s := by
  rw [runDecode, runDecode, h, palHiStop_mask { c with palHiPolicy := .mask } f s rfl]
  cases f <;> rfl

/-! ### The statements -/

/-- Settles O35: the step is `hostLoad`, whose sequence of bytes ends at the smaller of its length
and BUF_CAP. -/
theorem loadEffect : Obligations.LoadEffect := by
  intro s b rest hwf hp
  exact ⟨hostLoad config b (s.withPending rest), step_of_pending hp, rfl,
    fun a v ha hv => bufRead_hostLoad_inside config b (s.withPending rest) a v hwf ha hv,
    fun a ha => bufRead_hostLoad_outside config b (s.withPending rest) a ha,
    rfl, noResult_discardResult _, rfl, rfl, rfl⟩

/-- Settles O38: a read is answered where `hostRead` has a value, which is where R206 allows it. -/
theorem readAnsweredIffAllowed : Obligations.ReadAnsweredIffAllowed := by
  intro s r rest hinv hp
  have hiff := hostRead_isSome_iff hinv r
  refine ⟨fun hallowed => ?_, fun hnot => ?_, ?_⟩
  · obtain ⟨v, hv⟩ := Option.isSome_iff_exists.mp (hiff.mpr hallowed)
    exact ⟨_, v, hv, step_read_of_some hp hv, rfl⟩
  · exact step_read_of_none hp (Option.not_isSome_iff_eq_none.mp (mt hiff.mp hnot))
  · rintro j hf rfl hj
    exact hostRead_clut_of_done config (status_done_of_fmt hinv hf) (readClut_of_rawIndexed hf hj)

/-- Settles O40: each read of a state of the invariant, by the lemma for the register or list it
reads. -/
theorem hostReadsDeliverState : Obligations.HostReadsDeliverState := by
  refine ⟨fun s i hi => if_pos hi, fun s hinv => ⟨rfl, fun hst => hostRead_status_of_eq hst,
    fun hst => hostRead_status_of_eq hst,
    fun hst => ⟨hostRead_status_of_eq hst, hostRead_errSize_of_error hinv hst⟩,
    fun f _ hf => ⟨fun k hk => pixel_of_fmt hinv hf hk,
      fun off j hoff hj => clut_of_fmt hinv hf hoff hj⟩⟩⟩

/-- Settles O46: of the cases of `step_of_pending_cases`, only a read is refused. -/
theorem commandsComplete : Obligations.CommandsComplete := by
  intro s cmd rest hp hnoread
  rcases step_of_pending_cases hp with hnext | ⟨r, hread, _⟩
  · exact hnext
  · exact absurd hread (hnoread r)

/-- Settles O50, by induction on the pending commands (`run_pending_ends`). -/
theorem everyRunEnds : Obligations.EveryRunEnds := by
  intro s hinv
  rcases run_pending_ends s.pending s hinv rfl with ⟨t, hrun, hempty, ht⟩ | hstops
  · exact .inl ⟨t, ⟨hrun, hempty⟩, ht⟩
  · exact .inr hstops

/-- Settles O28: START samples LEN and runs the operation it selects. -/
theorem stepRunsSelectedOperation : Obligations.StepRunsSelectedOperation := by
  intro s rest i hp hsel
  rw [step_of_pending hp, runCommand, startDecode, fetchSelector, withPending_len, hsel]

/-- Settles O33: the step is `hostReset`, which takes no register from the state before it. -/
theorem resetFromAnyState : Obligations.ResetFromAnyState := by
  intro s rest hp
  exact ⟨hostReset (s.withPending rest), step_of_pending hp, rfl, rfl, noResult_reset, rfl,
    fun a => Nat.not_lt_zero a, fun _ => rfl, rfl, rfl⟩

/-- Settles O34: the fields of `State.reset`. -/
theorem resetStateValues : Obligations.ResetStateValues := ⟨rfl, rfl, noResult_reset, rfl⟩

/-- Settles O36: after reset LEN is 0, the size of no format. -/
theorem startWithoutLoadFails : Obligations.StartWithoutLoadFails := by
  intro rest
  have hsel : decodeSelector config 0 = .error (.unsupportedFormat 0) := rfl
  exact ⟨_, step_start_of_unsupported rfl hsel, rfl, rfl⟩

/-- Settles O48: the reset state is what RESET makes of itself. -/
theorem invariantAtReset : Obligations.InvariantAtReset := inv_hostReset State.reset

/-- Settles O26: with every palette byte below 128 there is no lowest high one, so the policy fault
does not stop either. -/
theorem policiesAgreeOnLowBytes : Obligations.PoliciesAgreeOnLowBytes := by
  intro c f px s hc hlow
  have hnone : highPaletteByte c f s = none := by
    refine Option.eq_none_iff_forall_ne_some.mpr fun a ha => ?_
    obtain ⟨hlt, hle, hhigh, _⟩ := (highPaletteByte_eq_some_iff hc f s a).mp ha
    exact absurd (hlow a hlt hle) (Nat.not_lt.mpr hhigh)
  have hstop : palHiStop { c with palHiPolicy := .fault } f s = none := by
    rw [← hnone]
    cases f <;> rfl
  exact runDecode_eq_mask_of_no_stop hstop px

/-- Settles O27: the decode stops where `highPaletteByte` finds the lowest high byte. -/
theorem faultPolicyStopsAtLowestHighByte : Obligations.FaultPolicyStopsAtLowestHighByte := by
  intro c f px s a hc hpolicy hlen
  have hstop : palHiStop c f s = highPaletteByte c f s := by rw [palHiStop, hpolicy]
  rw [runDecode_eq_paletteByteHigh_iff hlen, hstop]
  exact highPaletteByte_eq_some_iff hc f s a

end Sys2Proof.Proofs
end
